-- ==== Sys2Proof/Word.lean ====
section
/-! DEFINITION. The two pattern widths of CORE: the 32-bit word and the byte (00_scope.md R9, R10). All arithmetic on
them stands in Machine/Arith.lean. -/

namespace Sys2Proof

/-- A 32-bit pattern: generator state, seed, command word, register value (00_scope.md R9). -/
abbrev Word := BitVec 32

/-- A byte: key byte, buffer byte, immediate operand (00_scope.md R9). -/
abbrev Byte := BitVec 8

end Sys2Proof
end

