-- ==== Sys2Proof/Syntax.lean ====
section
/-! DEFINITION. The commands of CORE: one constructor for each row of spec/opcode_table.json (30_encoding.md R85). An
operand is a field of the command word, taken without extension or scaling (30_encoding.md R83). -/

namespace Sys2Proof

/-- A command. `imm8 = w[7:0]`, `k = w[10:8]`, `p = w[11]` (30_encoding.md R83; `p = true` is parity 1, odd, R81). -/
inductive Instr where
  | nop                                            -- R100
  | keyclr                                         -- R101
  | keypush (imm8 : Byte)                          -- R102
  | seed                                           -- R104
  | stepclr                                        -- R105
  | next                                           -- R122
  | ksbyte                                         -- R142
  | ksxor                                          -- R143
  | bsadv                                          -- R162
  | blkfwd                                         -- R164
  | blkinv                                         -- R165
  | tsadv                                          -- R184
  | rot13 (imm8 : Byte)                            -- R185
  | brotl (imm8 : Byte) (k : BitVec 3)             -- R186
  | brotr (imm8 : Byte) (k : BitVec 3)             -- R187
  | xbenc (imm8 : Byte) (k : BitVec 3) (p : Bool)  -- R188
  | xbdec (imm8 : Byte) (k : BitVec 3) (p : Bool)  -- R189
  | xfenc                                          -- R190
  | xfdec                                          -- R191
  | encode                                         -- R211
  | decode                                         -- R212
  deriving DecidableEq, Repr

end Sys2Proof
end

