-- ==== Sys2Proof/WellFormed.lean ====
section
/-! DEFINITION. Well-formedness. An `Instr` holds its operands in fields of exactly the encoding's widths, so each one is
well formed; what can be ill formed is a command as it is WRITTEN, a mnemonic with numbers (30_encoding.md R90: "imm8 in
0..255, k in 0..7, p in 0..1; an operand out of range is an assembly error"). -/

namespace Sys2Proof

/-- The mnemonics of 30_encoding.md R85. -/
inductive Mnemonic where
  | NOP | KEYCLR | KEYPUSH | SEED | STEPCLR | NEXT | KSBYTE | KSXOR | BSADV | BLKFWD | BLKINV
  | TSADV | ROT13 | BROTL | BROTR | XBENC | XBDEC | XFENC | XFDEC | ENCODE | DECODE
  deriving DecidableEq, Repr

/-- The four formats of 30_encoding.md R82. -/
inductive Format where
  | N | I | K | KP
  deriving DecidableEq, Repr

/-- The format of each mnemonic (30_encoding.md R85). -/
def Mnemonic.format : Mnemonic → Format
  | .KEYPUSH | .ROT13 => .I
  | .BROTL | .BROTR => .K
  | .XBENC | .XBDEC => .KP
  | .NOP | .KEYCLR | .SEED | .STEPCLR | .NEXT | .KSBYTE | .KSXOR | .BSADV | .BLKFWD | .BLKINV
  | .TSADV | .XFENC | .XFDEC | .ENCODE | .DECODE => .N

/-- A command as it is written: `MNEMONIC imm8, k, p` with the operands its format has (30_encoding.md R90). -/
structure Command where
  mnemonic : Mnemonic
  operands : List Nat
  deriving DecidableEq, Repr

/-- The assembler's check of 30_encoding.md R90: the format's number of operands, each in its range. -/
def Command.wf (c : Command) : Bool :=
  match c.mnemonic.format, c.operands with
  | .N, [] => true
  | .I, [imm8] => decide (imm8 < 256)
  | .K, [imm8, k] => decide (imm8 < 256) && decide (k < 8)
  | .KP, [imm8, k, p] => decide (imm8 < 256) && decide (k < 8) && decide (p < 2)
  | .N, _ :: _ => false
  | .I, [] | .I, _ :: _ :: _ => false
  | .K, [] | .K, [_] | .K, _ :: _ :: _ :: _ => false
  | .KP, [] | .KP, [_] | .KP, [_, _] | .KP, _ :: _ :: _ :: _ :: _ => false

/-- How an instruction is written (30_encoding.md R90). -/
def Instr.toCommand : Instr → Command
  | .nop => ⟨.NOP, []⟩
  | .keyclr => ⟨.KEYCLR, []⟩
  | .keypush imm8 => ⟨.KEYPUSH, [imm8.toNat]⟩
  | .seed => ⟨.SEED, []⟩
  | .stepclr => ⟨.STEPCLR, []⟩
  | .next => ⟨.NEXT, []⟩
  | .ksbyte => ⟨.KSBYTE, []⟩
  | .ksxor => ⟨.KSXOR, []⟩
  | .bsadv => ⟨.BSADV, []⟩
  | .blkfwd => ⟨.BLKFWD, []⟩
  | .blkinv => ⟨.BLKINV, []⟩
  | .tsadv => ⟨.TSADV, []⟩
  | .rot13 imm8 => ⟨.ROT13, [imm8.toNat]⟩
  | .brotl imm8 k => ⟨.BROTL, [imm8.toNat, k.toNat]⟩
  | .brotr imm8 k => ⟨.BROTR, [imm8.toNat, k.toNat]⟩
  | .xbenc imm8 k p => ⟨.XBENC, [imm8.toNat, k.toNat, p.toNat]⟩
  | .xbdec imm8 k p => ⟨.XBDEC, [imm8.toNat, k.toNat, p.toNat]⟩
  | .xfenc => ⟨.XFENC, []⟩
  | .xfdec => ⟨.XFDEC, []⟩
  | .encode => ⟨.ENCODE, []⟩
  | .decode => ⟨.DECODE, []⟩

/-- An instruction is well formed when it can be written. -/
def Instr.wf (i : Instr) : Bool := i.toCommand.wf

end Sys2Proof
end

