-- ==== Sys2Proof/Decode.lean ====
section
/-! DEFINITION. Decoding of command words, total on all 2^32 words, and the encoder written from the same tables
(30_encoding.md R81, R82, R85, R87, R88). -/

namespace Sys2Proof

/-- Why a word is illegal (30_encoding.md R88): each of the two is ILLEGAL_CMD for CORE. -/
inductive DecodeError where
  /-- The OPC value is not in 30_encoding.md R85. -/
  | unassignedOpcode (opc : Byte)
  /-- The OPC value is assigned, and a reserved bit of its format is not zero (30_encoding.md R82). -/
  | reservedBits (opc : Byte)
  deriving DecidableEq, Repr

/-! ### Fields of the command word (30_encoding.md R81, R83) -/

/-- OPC, bits 31:24. -/
def opcField (w : Word) : Byte := w.extractLsb' 24 8
/-- IMM8, bits 7:0. -/
def imm8Field (w : Word) : Byte := w.extractLsb' 0 8
/-- K, bits 10:8. -/
def kField (w : Word) : BitVec 3 := w.extractLsb' 8 3
/-- P, bit 11. -/
def pField (w : Word) : Bool := w.getLsbD 11

/-- The reserved bits of a format are the bits from this one up to bit 23 (30_encoding.md R82). -/
def Format.reservedFrom : Format → Nat
  | .N => 0
  | .I => 8
  | .K => 11
  | .KP => 12

/-- All reserved bits of the format are zero (30_encoding.md R82). -/
def reservedZero (f : Format) (w : Word) : Bool :=
  decide (w.toNat % 2 ^ 24 / 2 ^ f.reservedFrom = 0)

/-- A word whose opcode is assigned to `i`, of format `f`. -/
def checked (f : Format) (w : Word) (i : Instr) : Except DecodeError Instr :=
  if reservedZero f w then .ok i else .error (.reservedBits (opcField w))

/-- Decode a command word (30_encoding.md R85, R87, R88). -/
def decode (w : Word) : Except DecodeError Instr :=
  match (opcField w).toNat with
  | 0x00 => checked .N w .nop
  | 0x01 => checked .N w .keyclr
  | 0x02 => checked .I w (.keypush (imm8Field w))
  | 0x03 => checked .N w .seed
  | 0x04 => checked .N w .stepclr
  | 0x08 => checked .N w .next
  | 0x09 => checked .N w .ksbyte
  | 0x0A => checked .N w .ksxor
  | 0x10 => checked .N w .bsadv
  | 0x11 => checked .N w .blkfwd
  | 0x12 => checked .N w .blkinv
  | 0x18 => checked .N w .tsadv
  | 0x19 => checked .I w (.rot13 (imm8Field w))
  | 0x1A => checked .K w (.brotl (imm8Field w) (kField w))
  | 0x1B => checked .K w (.brotr (imm8Field w) (kField w))
  | 0x1C => checked .KP w (.xbenc (imm8Field w) (kField w) (pField w))
  | 0x1D => checked .KP w (.xbdec (imm8Field w) (kField w) (pField w))
  | 0x1E => checked .N w .xfenc
  | 0x1F => checked .N w .xfdec
  | 0x20 => checked .N w .encode
  | 0x21 => checked .N w .decode
  | _ => .error (.unassignedOpcode (opcField w))

/-! ### Encoding (30_encoding.md R81, R82, R85) -/

/-- The command word `OPC | 0 (12 bits) | P | K | IMM8` of 30_encoding.md R81. -/
def commandWord (opc : Byte) (p : Bool) (k : BitVec 3) (imm8 : Byte) : Word :=
  opc ++ (0#12 ++ (BitVec.ofBool p ++ (k ++ imm8)))

/-- The opcode of each command (30_encoding.md R85). -/
def opcodeOf : Instr → Byte
  | .nop => 0x00#8
  | .keyclr => 0x01#8
  | .keypush _ => 0x02#8
  | .seed => 0x03#8
  | .stepclr => 0x04#8
  | .next => 0x08#8
  | .ksbyte => 0x09#8
  | .ksxor => 0x0A#8
  | .bsadv => 0x10#8
  | .blkfwd => 0x11#8
  | .blkinv => 0x12#8
  | .tsadv => 0x18#8
  | .rot13 _ => 0x19#8
  | .brotl _ _ => 0x1A#8
  | .brotr _ _ => 0x1B#8
  | .xbenc _ _ _ => 0x1C#8
  | .xbdec _ _ _ => 0x1D#8
  | .xfenc => 0x1E#8
  | .xfdec => 0x1F#8
  | .encode => 0x20#8
  | .decode => 0x21#8

/-- The word of an instruction: unused fields are zero (30_encoding.md R82). -/
def encode (i : Instr) : Word :=
  match i with
  | .keypush imm8 | .rot13 imm8 => commandWord (opcodeOf i) false 0#3 imm8
  | .brotl imm8 k | .brotr imm8 k => commandWord (opcodeOf i) false k imm8
  | .xbenc imm8 k p | .xbdec imm8 k p => commandWord (opcodeOf i) p k imm8
  | .nop | .keyclr | .seed | .stepclr | .next | .ksbyte | .ksxor | .bsadv | .blkfwd | .blkinv
  | .tsadv | .xfenc | .xfdec | .encode | .decode => commandWord (opcodeOf i) false 0#3 0#8

/-! ### From a written command to its word (30_encoding.md R90) -/

/-- The instruction a written command stands for; `none` is the assembly error of 30_encoding.md R90. -/
def Command.toInstr (c : Command) : Option Instr :=
  if c.wf then
    let imm8 : Byte := BitVec.ofNat 8 (c.operands.getD 0 0)
    let k : BitVec 3 := BitVec.ofNat 3 (c.operands.getD 1 0)
    let p : Bool := c.operands.getD 2 0 == 1
    match c.mnemonic with
    | .NOP => some .nop
    | .KEYCLR => some .keyclr
    | .KEYPUSH => some (.keypush imm8)
    | .SEED => some .seed
    | .STEPCLR => some .stepclr
    | .NEXT => some .next
    | .KSBYTE => some .ksbyte
    | .KSXOR => some .ksxor
    | .BSADV => some .bsadv
    | .BLKFWD => some .blkfwd
    | .BLKINV => some .blkinv
    | .TSADV => some .tsadv
    | .ROT13 => some (.rot13 imm8)
    | .BROTL => some (.brotl imm8 k)
    | .BROTR => some (.brotr imm8 k)
    | .XBENC => some (.xbenc imm8 k p)
    | .XBDEC => some (.xbdec imm8 k p)
    | .XFENC => some .xfenc
    | .XFDEC => some .xfdec
    | .ENCODE => some .encode
    | .DECODE => some .decode
  else none

/-- The command word of a written command; `none` is an assembly error (30_encoding.md R90). -/
def Command.assemble (c : Command) : Option Word := c.toInstr.map encode

/-! ### The opcode table's words -/

/-- A word of the opcode table as CORE receives it: the low `nbits` bits of `w`, the bits above them zero. A command
word is one 32-bit value written to CMD (30_encoding.md R80), so its bits are numbered as the table numbers them. -/
def tableWord (nbits w : Nat) : Word := BitVec.ofNat 32 (w % 2 ^ nbits)

/-- The instruction the decoder reads from a word of spec/opcode_table.json (log 14). -/
def decodeTableWord (nbits w : Nat) : Option Instr := (decode (tableWord nbits w)).toOption

end Sys2Proof
end

