-- ==== Sys2Proof/Config.lean ====
section
/-! DEFINITION. What is fixed for one machine: the two parameters of 00_scope.md R8, and the free values the spec leaves
open (10_state.md R36). -/

namespace Sys2Proof.Config

/-- N_MAX, the byte capacity of the buffer memory: "this spec's value is N_MAX = 256" (00_scope.md R8).
DEDUCED, unsafe for a part of another capacity: log 5. -/
def nMax : Nat := 256

/-- BASE, the bus address at which the register map starts: OPEN (00_scope.md R8, 20_memory.md R60), so nothing can
be proved of its value. Safe: log 6. -/
opaque base : Nat

/-- The offset at which a bus address reaches CORE, when it lies at or above BASE (00_scope.md R8: "every address in
this spec is an offset from BASE"). -/
def offsetOf (address : Nat) : Option Nat :=
  if base ≤ address then some (address - base) else none

/-- FREE VALUE: the content of buffer byte `j` after the reset numbered `draw` (10_state.md R36, 70_reset_and_hazards.md
R250, 93_implementation_defined.md U4: "a fresh draw per byte at each reset"). Safe: log 3. -/
opaque bufAtReset (draw j : Nat) : Byte

end Sys2Proof.Config
end

