-- ==== Sys2Proof/Machine/State.lean ====
section
/-! DEFINITION. The state of CORE: exactly what 10_state.md R20 lists, and beside it the model's own fields `draw`,
`pending` and `responses`, which stand for the host's side of the port (log 1, log 3, log 8). -/

namespace Sys2Proof.Machine

/-- The four key bytes KEY[0..3], KEY[0] the first byte of the prefix (10_state.md R25). -/
structure Key where
  k0 : Byte
  k1 : Byte
  k2 : Byte
  k3 : Byte
  deriving DecidableEq, Repr

/-- What reaches CORE from outside: a host transaction `MemRead(off, n)` or `MemWrite(off, n, v)` (20_memory.md R50), or
the reset event (70_reset_and_hazards.md R250). `off` is an offset from BASE; of `v` a write of n bytes uses bits
8n-1..0 (log 10). -/
inductive HostEvent where
  | read (off n : Nat)
  | write (off n : Nat) (v : Word)
  | reset
  deriving DecidableEq, Repr

/-- The response to a transaction (20_memory.md R50): OK, OK with `n` bytes of data, zero-extended, or a bus error. -/
inductive Response where
  | ok
  | data (n : Nat) (v : Word)
  | busError
  deriving DecidableEq, Repr

/-- The buffer memory as written since the last reset: (buffer index, byte) pairs, indices strictly rising. An index
that is not listed has not been written, and reads as its free value (10_state.md R36; log 3, log 4). -/
abbrev Memory := List Host.Cell

/-- The state of CORE (10_state.md R20) and of its host port. -/
structure State where
  /-- KEY[0..3], 8 bits each (R25). -/
  key : Key
  /-- KCNT, the count of key bytes pushed, saturating at 15 (R25). -/
  kcnt : BitVec 4
  /-- SEED (R24). -/
  seed : Word
  /-- X, the generator state (R23). -/
  x : Word
  /-- LEN, the buffer length N (R26). -/
  len : BitVec 16
  /-- RESULT, the result of the last scalar command (R30). -/
  result : Word
  /-- BSTEP, the block step counter (R27, R29). -/
  bstep : BitVec 3
  /-- TSTEP, the byte-transform step counter (R28, R29). -/
  tstep : BitVec 3
  /-- STATUS.ERRCODE, the completion code of the last command (R31). -/
  errcode : BitVec 3
  /-- BUF[0..N_MAX-1] (R32). -/
  buf : Memory
  /-- The model's own: the number of reset events so far, the index of BUF's free values (log 3). -/
  draw : Nat
  /-- The model's own: the transactions and reset events still to be performed, oldest first (log 1). -/
  pending : List HostEvent
  /-- The model's own: the responses given so far, oldest first (log 8). -/
  responses : List Response
  deriving DecidableEq, Repr

/-- Why a step stops. -/
inductive Fault where
  /-- Raised by a host transaction that ends in a bus error (20_memory.md R51..R54), which it carries: "A model treats a
  bus error as a fault of the host transaction" (R54). No state of CORE has changed. Safe: log 7. -/
  | busError (e : HostEvent)
  deriving DecidableEq, Repr

/-- Why an instruction has no meaning. -/
inductive Refusal where
  /-- Raised by an arm of `exec` for an instruction that is not modelled; no arm does. Safe. -/
  | notModelled (mnemonic : String)
  deriving DecidableEq, Repr

/-- CORE right after reset (10_state.md R36, R37; 70_reset_and_hazards.md R250, R251): every register 0, no byte of BUF
written, no transaction pending. -/
def State.reset : State where
  key := ⟨0#8, 0#8, 0#8, 0#8⟩
  kcnt := 0#4
  seed := 0#32
  x := 0#32
  len := 0#16
  result := 0#32
  bstep := 0#3
  tstep := 0#3
  errcode := 0#3
  buf := []
  draw := 0
  pending := []
  responses := []

end Sys2Proof.Machine
end

