-- ==== Sys2Proof/Machine/Flags.lean ====
section
/-! DEFINITION. The one status field of CORE, ERRCODE, and its codes (10_state.md R31, 60_exceptions.md R231). CORE has no
other flag: no carry, overflow or condition code. -/

namespace Sys2Proof.Machine

/-- 0, OK: the command completed. -/
def errOk : BitVec 3 := 0#3
/-- 1, ILLEGAL_CMD: the command word is not legal (60_exceptions.md R232). -/
def errIllegalCmd : BitVec 3 := 1#3
/-- 2, INVALID_KEY_LENGTH: KCNT ≠ 4 (60_exceptions.md R234). -/
def errInvalidKeyLength : BitVec 3 := 2#3
/-- 3, BAD_LENGTH: LEN > N_MAX (60_exceptions.md R233). -/
def errBadLength : BitVec 3 := 3#3

end Sys2Proof.Machine
end

