-- ==== Sys2Proof/Machine/Arith.lean ====
section
/-! DEFINITION. The arithmetic and bit operators of 00_scope.md R10..R13: wraparound multiply, rotations, byte order. -/

namespace Sys2Proof.Machine

/-- `a *32 b`: the exact product, narrowed to 32 bits (00_scope.md R11, 41_prng.md R126). The factors stand in the order
in which Lean's kernel does not try to count through a constant `b`. -/
def mul32 (a b : Word) : Word := BitVec.ofNat 32 (b.toNat * a.toNat)

/-- `rotl32(v, k)` for 1 ≤ k ≤ 31 (00_scope.md R12). -/
def rotl32 (v : Word) (k : Nat) : Word := (v <<< k) ||| (v >>> (32 - k))

/-- `rotr32(v, k)` for 1 ≤ k ≤ 31 (00_scope.md R12). -/
def rotr32 (v : Word) (k : Nat) : Word := (v >>> k) ||| (v <<< (32 - k))

/-- `rotl8(v, k)` for any k ≥ 0, the amount taken mod 8 (00_scope.md R12). -/
def rotl8 (v : Byte) (k : Nat) : Byte :=
  if k % 8 = 0 then v else (v <<< (k % 8)) ||| (v >>> (8 - k % 8))

/-- `rotr8(v, k)` for any k ≥ 0, the amount taken mod 8 (00_scope.md R12). -/
def rotr8 (v : Byte) (k : Nat) : Byte :=
  if k % 8 = 0 then v else (v >>> (k % 8)) ||| (v <<< (8 - k % 8))

/-- `low8(v) = v[7:0]` (00_scope.md R13). -/
def low8 (v : Word) : Byte := v.extractLsb' 0 8

/-- `zext32(v)` (00_scope.md R13). -/
def zext32 {n : Nat} (v : BitVec n) : Word := v.setWidth 32

/-- The little-endian value of up to four bytes: byte k is bits 8k+7..8k (20_memory.md R53, R55). -/
def leValue : List Byte → Word
  | [] => 0#32
  | b :: bs => zext32 b ||| (leValue bs <<< 8)

/-- `LE32(b0, b1, b2, b3)` (00_scope.md R13). -/
def le32 (b0 b1 b2 b3 : Byte) : Word := leValue [b0, b1, b2, b3]

/-- The n bytes of a bus value, least significant first: `v[8k+7:8k]` for k = 0..n-1 (20_memory.md R53, R55). -/
def leBytes (n : Nat) (v : Word) : List Byte := (List.range n).map fun k => v.extractLsb' (8 * k) 8

end Sys2Proof.Machine
end

