-- ==== Sys2Proof/Machine/Operands.lean ====
section
/-! DEFINITION. The operands of commands and transactions: the registers of the map (10_state.md R33), what a host read
of each returns (R34), and the buffer bytes (10_state.md R32, 20_memory.md R53). -/

namespace Sys2Proof.Machine

/-! ### The buffer memory as a list of written bytes -/

/-- The byte written at index `j` since the last reset, if one was. -/
def Memory.lookupByte : Memory → Nat → Option Byte
  | [], _ => none
  | (a, b) :: m, j => if a = j then some b else Memory.lookupByte m j

/-- Write one byte, keeping the indices strictly rising. -/
def Memory.store : Memory → Nat → Byte → Memory
  | [], j, v => [(j, v)]
  | (a, b) :: m, j, v =>
    if j < a then (j, v) :: (a, b) :: m
    else if j = a then (j, v) :: m
    else (a, b) :: Memory.store m j v

/-- Write a sequence of bytes from index `j` on. -/
def Memory.storeAll : Memory → Nat → List Byte → Memory
  | m, _, [] => m
  | m, j, b :: bs => Memory.storeAll (Memory.store m j b) (j + 1) bs

/-- The indices are at least `lo`, strictly rising and below N_MAX. -/
def Memory.wfFrom : Nat → Memory → Bool
  | _, [] => true
  | lo, (a, _) :: m => decide (lo ≤ a) && decide (a < Config.nMax) && Memory.wfFrom (a + 1) m

/-- The canonical form of the buffer memory: indices strictly rising, each below N_MAX (10_state.md R32; log 4). -/
def Memory.wf (m : Memory) : Bool := Memory.wfFrom 0 m

/-! ### Buffer bytes -/

/-- BUF[j]: the byte written there, else the free value of the last reset (10_state.md R36; log 3). -/
def State.byte (s : State) (j : Nat) : Byte :=
  match s.buf.lookupByte j with
  | some b => b
  | none => Config.bufAtReset s.draw j

/-- BUF[j .. j+n-1]. -/
def State.bytes (s : State) (j n : Nat) : List Byte := (List.range n).map fun k => s.byte (j + k)

/-! ### Key bytes -/

/-- `KEY[j] <- v` for j in 0..3; there is no other key byte (10_state.md R25, 40_control_key.md R102). -/
def Key.set (key : Key) (j : BitVec 4) (v : Byte) : Key :=
  match j.toNat with
  | 0 => { key with k0 := v }
  | 1 => { key with k1 := v }
  | 2 => { key with k2 := v }
  | 3 => { key with k3 := v }
  | _ => key

/-- `LE32(KEY[0], KEY[1], KEY[2], KEY[3])`, what the KEY register reads as (10_state.md R34). -/
def Key.le32 (key : Key) : Word := Machine.le32 key.k0 key.k1 key.k2 key.k3

/-! ### Registers of the map -/

/-- The implemented registers of 10_state.md R33. -/
inductive Reg where
  | cmd | status | key | kcnt | len | seed | x | result | step
  deriving DecidableEq, Repr

/-- The register at a register offset (10_state.md R33); the other offsets below 0x100 hold none. -/
def regAt (off : Nat) : Option Reg :=
  match off with
  | 0x000 => some .cmd
  | 0x004 => some .status
  | 0x008 => some .key
  | 0x00C => some .kcnt
  | 0x010 => some .len
  | 0x014 => some .seed
  | 0x018 => some .x
  | 0x01C => some .result
  | 0x020 => some .step
  | _ => none

/-- What a host read of a register returns, reserved fields reading as zero; CMD is write-only (10_state.md R33, R34). -/
def State.regValue (s : State) : Reg → Option Word
  | .cmd => none
  | .status => some (zext32 s.errcode)
  | .key => some s.key.le32
  | .kcnt => some (zext32 s.kcnt)
  | .len => some (zext32 s.len)
  | .seed => some s.seed
  | .x => some s.x
  | .result => some s.result
  | .step => some ((zext32 s.tstep <<< 8) ||| zext32 s.bstep)

end Sys2Proof.Machine
end

