-- ==== Sys2Proof/Machine/Ops.lean ====
section
/-! DEFINITION. The shared operations of the commands: register writes, buffer writes, how a command completes, how it
ends in an error, the two checks, and the reset event. -/

namespace Sys2Proof.Machine

/-! ### Writing one piece of state (00_scope.md R14) -/

def State.setKey (s : State) (v : Key) : State := { s with key := v }
def State.setKcnt (s : State) (v : BitVec 4) : State := { s with kcnt := v }
def State.setSeed (s : State) (v : Word) : State := { s with seed := v }
def State.setX (s : State) (v : Word) : State := { s with x := v }
def State.setLen (s : State) (v : BitVec 16) : State := { s with len := v }
def State.setResult (s : State) (v : Word) : State := { s with result := v }
def State.setBstep (s : State) (v : BitVec 3) : State := { s with bstep := v }
def State.setTstep (s : State) (v : BitVec 3) : State := { s with tstep := v }
def State.setErrcode (s : State) (v : BitVec 3) : State := { s with errcode := v }
def State.setBuf (s : State) (m : Memory) : State := { s with buf := m }
/-- The events still to be performed (the model's own, log 1). -/
def State.setPending (s : State) (es : List HostEvent) : State := { s with pending := es }
/-- Give a response (the model's own record of it, log 8). -/
def State.respond (s : State) (r : Response) : State := { s with responses := s.responses ++ [r] }

/-- `BUF[j .. ] <- bs` (00_scope.md R14). -/
def State.storeBytes (s : State) (j : Nat) (bs : List Byte) : State := s.setBuf (s.buf.storeAll j bs)

/-! ### Ends of a command -/

/-- A command's pseudocode ran to its end: ERRCODE <- OK (60_exceptions.md R230). -/
def complete (s : State) : Host.Outcome State Fault Refusal := .next (s.setErrcode errOk)

/-- `raise Error(code)`, the whole of CORE's taking of an error: ERRCODE <- code and no other state changes; no trap, no
saved state, no return (00_scope.md R14, 60_exceptions.md R237, R238). -/
def raiseError (code : BitVec 3) (s : State) : Host.Outcome State Fault Refusal := .next (s.setErrcode code)

/-- `if KCNT != 4: raise Error(INVALID_KEY_LENGTH)`, else go on (40_control_key.md R106). -/
def requireKey (s : State) (body : Host.Outcome State Fault Refusal) : Host.Outcome State Fault Refusal :=
  if s.kcnt = 4#4 then body else raiseError errInvalidKeyLength s

/-- `if LEN > N_MAX: raise Error(BAD_LENGTH)`, else go on (60_exceptions.md R233). -/
def requireLen (s : State) (body : Host.Outcome State Fault Refusal) : Host.Outcome State Fault Refusal :=
  if s.len.toNat ≤ Config.nMax then body else raiseError errBadLength s

/-- A scalar command: RESULT <- v, then completion (10_state.md R30). -/
def completeWith (v : Word) (s : State) : Host.Outcome State Fault Refusal := complete (s.setResult v)

/-! ### The buffer of a command -/

/-- BUF[0..LEN-1], what a buffer command reads (20_memory.md R59). -/
def State.buffer (s : State) : List Byte := s.bytes 0 s.len.toNat

/-! ### Reset -/

/-- The reset event (70_reset_and_hazards.md R250): every register to its reset value and every BUF byte drawn afresh.
The host's side of the port is not CORE's and is kept (log 9). -/
def State.afterReset (s : State) : State :=
  { State.reset with draw := s.draw + 1, pending := s.pending, responses := s.responses }

end Sys2Proof.Machine
end

