-- ==== Sys2Proof/Machine/BlockRotation.lean ====
section
/-! DEFINITION. The block cyclic rotator and its step sequencer: BSADV, BLKFWD, BLKINV (43_block_rotation.md). -/

namespace Sys2Proof.Machine

/-- The block step recurrence `(s + 3) mod 7 + 1` (R160). -/
def blockAdv (v : BitVec 3) : BitVec 3 := BitVec.ofNat 3 ((v.toNat + 3) % 7 + 1)

/-- BSADV (R162). -/
def execBsadv (s : State) : Host.Outcome State Fault Refusal :=
  let v := blockAdv s.bstep
  completeWith (zext32 v) (s.setBstep v)

/-- Forward, rotate left by `a`: `blk[a:B] ++ blk[0:a]` (R163). -/
def rotFwd (blk : List Byte) (a : Nat) : List Byte := blk.drop a ++ blk.take a

/-- Inverse, rotate right by `a`: `blk[B-a:B] ++ blk[0:B-a]` (R163). -/
def rotInv (blk : List Byte) (a : Nat) : List Byte :=
  blk.drop (blk.length - a) ++ blk.take (blk.length - a)

/-- The number of blocks of a buffer of `n` bytes, ⌈n/8⌉ (R161). -/
def blockCount (n : Nat) : Nat := (n + 7) / 8

/-- The loop of R164 and R165 over `m` blocks from counter value `v`: each block, of min(8, what is left) bytes, is
rotated by the updated counter mod its size. The rotated bytes and the last counter value. -/
def rotBlocks (rot : List Byte → Nat → List Byte) : Nat → BitVec 3 → List Byte → List Byte × BitVec 3
  | 0, v, _ => ([], v)
  | m + 1, v, bs =>
    let v' := blockAdv v
    let blk := bs.take 8
    let rest := rotBlocks rot m v' (bs.drop 8)
    (rot blk (v'.toNat % blk.length) ++ rest.1, rest.2)

/-- The block rotation stage in one direction; the counter starts at 0 (R164, R165, R211, R212). -/
def blockStage (rot : List Byte → Nat → List Byte) (s : State) : State :=
  let out := rotBlocks rot (blockCount s.len.toNat) 0#3 s.buffer
  (s.setBstep out.2).storeBytes 0 out.1

/-- BLKFWD (R164). -/
def execBlkfwd (s : State) : Host.Outcome State Fault Refusal :=
  requireLen s (complete (blockStage rotFwd s))

/-- BLKINV (R165). -/
def execBlkinv (s : State) : Host.Outcome State Fault Refusal :=
  requireLen s (complete (blockStage rotInv s))

end Sys2Proof.Machine
end

