-- ==== Sys2Proof/Machine/ByteTransform.lean ====
section
/-! DEFINITION. The byte substitution network: TSADV, ROT13, BROTL, BROTR, XBENC, XBDEC, XFENC, XFDEC
(44_byte_transform.md). -/

namespace Sys2Proof.Machine

/-- The 13-position alphabetic rotation on ASCII codes (R180). -/
def rot13 (v : Byte) : Byte :=
  if 0x41 ≤ v.toNat ∧ v.toNat ≤ 0x4D ∨ 0x61 ≤ v.toNat ∧ v.toNat ≤ 0x6D then v + 13#8
  else if 0x4E ≤ v.toNat ∧ v.toNat ≤ 0x5A ∨ 0x6E ≤ v.toNat ∧ v.toNat ≤ 0x7A then v - 13#8
  else v

/-- The byte-transform step recurrence `(s + 4) mod 7 + 1` (R182). -/
def byteAdv (v : BitVec 3) : BitVec 3 := BitVec.ofNat 3 ((v.toNat + 4) % 7 + 1)

/-- Decode direction: rotate, right at an even position and left at an odd one, then substitute (R183). -/
def xdec (v : Byte) (amount : Nat) (odd : Bool) : Byte :=
  rot13 (if odd then rotl8 v amount else rotr8 v amount)

/-- Encode direction: substitute, then rotate, left at an even position and right at an odd one (R183). -/
def xenc (v : Byte) (amount : Nat) (odd : Bool) : Byte :=
  if odd then rotr8 (rot13 v) amount else rotl8 (rot13 v) amount

/-- TSADV (R184). -/
def execTsadv (s : State) : Host.Outcome State Fault Refusal :=
  let v := byteAdv s.tstep
  completeWith (zext32 v) (s.setTstep v)

/-- ROT13 imm8 (R185). -/
def execRot13 (imm8 : Byte) (s : State) : Host.Outcome State Fault Refusal :=
  completeWith (zext32 (rot13 imm8)) s

/-- BROTL imm8, k (R186). -/
def execBrotl (imm8 : Byte) (k : BitVec 3) (s : State) : Host.Outcome State Fault Refusal :=
  completeWith (zext32 (rotl8 imm8 k.toNat)) s

/-- BROTR imm8, k (R187). -/
def execBrotr (imm8 : Byte) (k : BitVec 3) (s : State) : Host.Outcome State Fault Refusal :=
  completeWith (zext32 (rotr8 imm8 k.toNat)) s

/-- XBENC imm8, k, p (R188). -/
def execXbenc (imm8 : Byte) (k : BitVec 3) (p : Bool) (s : State) : Host.Outcome State Fault Refusal :=
  completeWith (zext32 (xenc imm8 k.toNat p)) s

/-- XBDEC imm8, k, p (R189). -/
def execXbdec (imm8 : Byte) (k : BitVec 3) (p : Bool) (s : State) : Host.Outcome State Fault Refusal :=
  completeWith (zext32 (xdec imm8 k.toNat p)) s

/-- The loop of R190 and R191 from counter value `v` at buffer position `i`: each position updates the counter and
transforms its byte. The transformed bytes and the last counter value. -/
def xfBytes (f : Byte → Nat → Bool → Byte) : BitVec 3 → Nat → List Byte → List Byte × BitVec 3
  | v, _, [] => ([], v)
  | v, i, b :: bs =>
    let v' := byteAdv v
    let rest := xfBytes f v' (i + 1) bs
    (f b v'.toNat (i % 2 == 1) :: rest.1, rest.2)

/-- The byte transform stage in one direction; the counter starts at 0 (R190, R191, R211, R212). -/
def xfStage (f : Byte → Nat → Bool → Byte) (s : State) : State :=
  let out := xfBytes f 0#3 0 s.buffer
  (s.setTstep out.2).storeBytes 0 out.1

/-- XFENC (R190). -/
def execXfenc (s : State) : Host.Outcome State Fault Refusal := requireLen s (complete (xfStage xenc s))

/-- XFDEC (R191). -/
def execXfdec (s : State) : Host.Outcome State Fault Refusal := requireLen s (complete (xfStage xdec s))

end Sys2Proof.Machine
end

