-- ==== Sys2Proof/Machine/ControlKey.lean ====
section
/-! DEFINITION. NOP, KEYCLR, KEYPUSH, SEED, STEPCLR (40_control_key.md). -/

namespace Sys2Proof.Machine

/-- NOP (R100). -/
def execNop (s : State) : Host.Outcome State Fault Refusal := complete s

/-- KEYCLR (R101). -/
def execKeyclr (s : State) : Host.Outcome State Fault Refusal :=
  complete ((s.setKey ⟨0#8, 0#8, 0#8, 0#8⟩).setKcnt 0#4)

/-- `min(KCNT + 1, 15)` (R102). -/
def kcntSucc (kcnt : BitVec 4) : BitVec 4 := BitVec.ofNat 4 (min (kcnt.toNat + 1) 15)

/-- KEYPUSH imm8 (R102): a fifth or later byte is discarded and only counted. -/
def execKeypush (imm8 : Byte) (s : State) : Host.Outcome State Fault Refusal :=
  let stored := if s.kcnt.toNat < 4 then s.setKey (s.key.set s.kcnt imm8) else s
  complete (stored.setKcnt (kcntSucc s.kcnt))

/-- The seed function: little-endian assembly, total (R103). -/
def seedOf (b0 b1 b2 b3 : Byte) : Word := le32 b0 b1 b2 b3

/-- `SEED <- seed(KEY[0..3]); X <- SEED` (R104). -/
def loadSeed (s : State) : State :=
  let v := seedOf s.key.k0 s.key.k1 s.key.k2 s.key.k3
  (s.setSeed v).setX v

/-- SEED (R104). -/
def execSeed (s : State) : Host.Outcome State Fault Refusal := requireKey s (complete (loadSeed s))

/-- STEPCLR (R105). -/
def execStepclr (s : State) : Host.Outcome State Fault Refusal :=
  complete ((s.setBstep 0#3).setTstep 0#3)

end Sys2Proof.Machine
end

