-- ==== Sys2Proof/Machine/Generator.lean ====
section
/-! DEFINITION. The 32-bit generator: the step function `next` and the command NEXT (41_prng.md). -/

namespace Sys2Proof.Machine

/-! The generator constants, opaque to software (R120; the source's literals, which the spec takes as normative: log 16). -/

def genC1 : Word := 0xE8601017#32
def genC2 : Word := 0x9AA454EF#32
def genC3 : Word := 0xA94DC8CF#32
def genC4 : Word := 0xDA41C486#32

/-- `next(x)` (R121): four times a product with a constant, XORed with its own rotation. -/
def genNext (x : Word) : Word :=
  let p := mul32 x genC1
  let a := p ^^^ rotl32 p 13
  let s1 := mul32 a genC2
  let b := s1 ^^^ rotr32 s1 5
  let s2 := mul32 b genC3
  let c := s2 ^^^ rotl32 s2 24
  let s3 := mul32 c genC4
  s3 ^^^ rotr32 s3 17

/-- NEXT (R122). -/
def execNext (s : State) : Host.Outcome State Fault Refusal :=
  let v := genNext s.x
  completeWith v (s.setX v)

end Sys2Proof.Machine
end

