-- ==== Sys2Proof/Machine/Keystream.lean ====
section
/-! DEFINITION. The keystream source and the XOR combiner: KSBYTE, KSXOR (42_keystream.md). -/

namespace Sys2Proof.Machine

/-- KSBYTE (R142). -/
def execKsbyte (s : State) : Host.Outcome State Fault Refusal :=
  let v := genNext s.x
  completeWith (zext32 (low8 v)) (s.setX v)

/-- The loop of R143 over the buffer's bytes from generator state `x`: the XORed bytes and the last generator state. -/
def ksXorBytes : Word → List Byte → List Byte × Word
  | x, [] => ([], x)
  | x, b :: bs =>
    let x' := genNext x
    let rest := ksXorBytes x' bs
    ((b ^^^ low8 x') :: rest.1, rest.2)

/-- The keystream stage of R143, R211, R212: restart X from SEED, XOR the buffer (R145). -/
def ksXorStage (s : State) : State :=
  let out := ksXorBytes s.seed s.buffer
  (s.setX out.2).storeBytes 0 out.1

/-- KSXOR (R143): no key check, the seed is the SEED register's. -/
def execKsxor (s : State) : Host.Outcome State Fault Refusal := requireLen s (complete (ksXorStage s))

end Sys2Proof.Machine
end

