-- ==== Sys2Proof/Machine/Pipeline.lean ====
section
/-! DEFINITION. The cipher pipeline: ENCODE, DECODE (45_pipeline.md). The key check comes before the length check
(60_exceptions.md R236). -/

namespace Sys2Proof.Machine

/-- ENCODE (R211): seed, byte transform, block rotation forward, keystream XOR. -/
def execEncode (s : State) : Host.Outcome State Fault Refusal :=
  requireKey s (requireLen s (complete (ksXorStage (blockStage rotFwd (xfStage xenc (loadSeed s))))))

/-- DECODE (R212): seed, keystream XOR, block rotation inverse, byte transform. -/
def execDecode (s : State) : Host.Outcome State Fault Refusal :=
  requireKey s (requireLen s (complete (xfStage xdec (blockStage rotInv (ksXorStage (loadSeed s))))))

end Sys2Proof.Machine
end

