-- ==== Sys2Proof/Machine/Dispatch.lean ====
section
/-! DEFINITION. `exec`: the effect of one command, one arm per constructor. -/

namespace Sys2Proof.Machine

/-- Execute one command (30_encoding.md R80, R85). -/
def exec (i : Instr) (s : State) : Host.Outcome State Fault Refusal :=
  match i with
  | .nop => Sys2Proof.Machine.execNop s
  | .keyclr => Sys2Proof.Machine.execKeyclr s
  | .keypush imm8 => Sys2Proof.Machine.execKeypush imm8 s
  | .seed => Sys2Proof.Machine.execSeed s
  | .stepclr => Sys2Proof.Machine.execStepclr s
  | .next => Sys2Proof.Machine.execNext s
  | .ksbyte => Sys2Proof.Machine.execKsbyte s
  | .ksxor => Sys2Proof.Machine.execKsxor s
  | .bsadv => Sys2Proof.Machine.execBsadv s
  | .blkfwd => Sys2Proof.Machine.execBlkfwd s
  | .blkinv => Sys2Proof.Machine.execBlkinv s
  | .tsadv => Sys2Proof.Machine.execTsadv s
  | .rot13 imm8 => Sys2Proof.Machine.execRot13 imm8 s
  | .brotl imm8 k => Sys2Proof.Machine.execBrotl imm8 k s
  | .brotr imm8 k => Sys2Proof.Machine.execBrotr imm8 k s
  | .xbenc imm8 k p => Sys2Proof.Machine.execXbenc imm8 k p s
  | .xbdec imm8 k p => Sys2Proof.Machine.execXbdec imm8 k p s
  | .xfenc => Sys2Proof.Machine.execXfenc s
  | .xfdec => Sys2Proof.Machine.execXfdec s
  | .encode => Sys2Proof.Machine.execEncode s
  | .decode => Sys2Proof.Machine.execDecode s

end Sys2Proof.Machine
end

