-- ==== Sys2Proof/Machine/Bus.lean ====
section
/-! DEFINITION. The host port: reads, writes, the execution of a command word, the reset event (20_memory.md R50..R58,
30_encoding.md R80, R87). -/

namespace Sys2Proof.Machine

/-- A write of `w` to CMD: decode and execute, or ILLEGAL_CMD and no other effect (30_encoding.md R80, R87). -/
def runCommand (w : Word) (s : State) : Host.Outcome State Fault Refusal :=
  match decode w with
  | .ok i => exec i s
  | .error _ => raiseError errIllegalCmd s

/-- The register a register transaction addresses: n = 4, off mod 4 = 0, an implemented register (20_memory.md R52). -/
def addressedReg (off n : Nat) : Option Reg :=
  if n = 4 ∧ off % 4 = 0 then regAt off else none

/-- The buffer index a transaction at or above 0x100 addresses (20_memory.md R51): a size of 1, 2 or 4, natural alignment, wholly inside BUF
(20_memory.md R53). -/
def addressedBuf (off n : Nat) : Option Nat :=
  if (n = 1 ∨ n = 2 ∨ n = 4) ∧ (off - 0x100) % n = 0 ∧ off - 0x100 + n ≤ Config.nMax then some (off - 0x100)
  else none

/-- The data of `MemRead(off, n)`, zero-extended; `none` is a bus error (20_memory.md R52, R53). -/
def memRead (off n : Nat) (s : State) : Option Word :=
  if off < 0x100 then (addressedReg off n).bind s.regValue
  else (addressedBuf off n).map fun j => leValue (s.bytes j n)

/-- A permitted write of `v` to a register; `none` is a bus error (10_state.md R34, 20_memory.md R52). -/
def regWrite (r : Reg) (v : Word) (s : State) : Option (Host.Outcome State Fault Refusal) :=
  match r with
  | .cmd => some (runCommand v s)
  | .len => some (.next (s.setLen (v.extractLsb' 0 16)))
  | .x => some (.next (s.setX v))
  | .status | .key | .kcnt | .seed | .result | .step => none

/-- The effect of `MemWrite(off, n, v)`; `none` is a bus error (20_memory.md R52, R53). -/
def memWrite (off n : Nat) (v : Word) (s : State) : Option (Host.Outcome State Fault Refusal) :=
  if off < 0x100 then (addressedReg off n).bind fun r => regWrite r v s
  else (addressedBuf off n).map fun j => .next (s.storeBytes j (leBytes n v))

/-- Give the OK response of a write that has been performed (20_memory.md R50, R62). -/
def respondOk : Host.Outcome State Fault Refusal → Host.Outcome State Fault Refusal
  | .next s => .next (s.respond .ok)
  | .fault r => .fault r
  | .refused r => .refused r

/-- Perform one event. A bus error is a fault of the transaction and changes nothing (20_memory.md R54; log 7). -/
def perform (e : HostEvent) (s : State) : Host.Outcome State Fault Refusal :=
  match e with
  | .read off n =>
    match memRead off n s with
    | some v => .next (s.respond (.data n v))
    | none => .fault (.busError e)
  | .write off n v =>
    match memWrite off n v s with
    | some o => respondOk o
    | none => .fault (.busError e)
  | .reset => .next s.afterReset

/-- Perform the oldest pending event; with none, CORE is idle and holds its state (10_state.md R22, 20_memory.md R62,
60_exceptions.md R246). -/
def performNext (s : State) : Host.Outcome State Fault Refusal :=
  match s.pending with
  | [] => .next s
  | e :: es => perform e (s.setPending es)

/-- The write of one command word to CMD. -/
def commandWrite (w : Word) : HostEvent := .write 0x000 4 w

end Sys2Proof.Machine
end

