-- ==== Sys2Proof/Machine/Step.lean ====
section
/-! DEFINITION. One step: one host transaction, a CMD write with its whole command included, or one reset event
(70_reset_and_hazards.md R259). -/

namespace Sys2Proof.Machine

/-- One step of CORE. -/
def step (s : State) : Host.Outcome State Fault Refusal := performNext s

/-- `s` with the write of this command word to CMD as the next pending transaction (log 2). -/
def State.withFetchWord (s : State) (nbits w : Nat) : State :=
  s.setPending (commandWrite (tableWord nbits w) :: s.pending)

end Sys2Proof.Machine
end

