-- ==== Sys2Proof/Machine/Assembler.lean ====
section
/-! DEFINITION. The assembler lines of 30_encoding.md R90..R92: their text, and the host transactions they stand for.
What the spec leaves open of the text (blanks, letter case) is log 15. -/

namespace Sys2Proof.Machine

/-- A line (30_encoding.md R90, R91, R92). -/
inductive AsmLine where
  | command (c : Command)
  | read (n off : Nat)
  | write (n off v : Nat)
  | setkey (b0 b1 b2 b3 : Nat)
  | setlen (n : Nat)
  | setx (v : Nat)
  | loadbuf (j : Nat) (bs : List Nat)
  | check
  | comment
  deriving DecidableEq, Repr

/-- `WR<8n> off, v`, with v an n-byte value (30_encoding.md R91, 20_memory.md R50). -/
def asmWrite (n off v : Nat) : Option (List HostEvent) :=
  if v < 2 ^ (8 * n) then some [.write off n (BitVec.ofNat 32 v)] else none

/-- "Each command line stands for the host transaction `WR32 0x000, <encoded word>`" (30_encoding.md R90). -/
def asmCommand (m : Mnemonic) (operands : List Nat) : Option (List HostEvent) :=
  (Command.assemble ⟨m, operands⟩).map fun w => [commandWrite w]

/-- Lines one after the other; one assembly error makes the whole an error. -/
def joinAll : List (Option (List HostEvent)) → Option (List HostEvent)
  | [] => some []
  | x :: xs => x.bind fun es => (joinAll xs).map fun fs => es ++ fs

/-- `WR8 BUF+j, b0; WR8 BUF+j+1, b1; …` (30_encoding.md R92). -/
def asmLoad (j : Nat) (bs : List Nat) : Option (List HostEvent) :=
  joinAll ((List.range bs.length).map fun k => asmWrite 1 (0x100 + j + k) (bs.getD k 0))

/-- The transactions of a line; `none` is an assembly error (30_encoding.md R90..R92). -/
def AsmLine.expand : AsmLine → Option (List HostEvent)
  | .command c => asmCommand c.mnemonic c.operands
  | .read n off => some [.read off n]
  | .write n off v => asmWrite n off v
  | .setkey b0 b1 b2 b3 =>
    joinAll [asmCommand .KEYCLR [], asmCommand .KEYPUSH [b0], asmCommand .KEYPUSH [b1],
      asmCommand .KEYPUSH [b2], asmCommand .KEYPUSH [b3]]
  | .setlen n => asmWrite 4 0x010 n
  | .setx v => asmWrite 4 0x018 v
  | .loadbuf j bs => asmLoad j bs
  | .check => some [.read 0x004 4]
  | .comment => some []

/-- The transactions of a sequence of lines. -/
def expandAll (lines : List AsmLine) : Option (List HostEvent) := joinAll (lines.map AsmLine.expand)

/-! ### Text -/

/-- The mnemonic as it is written. -/
def mnemonicName : Mnemonic → List Char
  | .NOP => ['N', 'O', 'P']
  | .KEYCLR => ['K', 'E', 'Y', 'C', 'L', 'R']
  | .KEYPUSH => ['K', 'E', 'Y', 'P', 'U', 'S', 'H']
  | .SEED => ['S', 'E', 'E', 'D']
  | .STEPCLR => ['S', 'T', 'E', 'P', 'C', 'L', 'R']
  | .NEXT => ['N', 'E', 'X', 'T']
  | .KSBYTE => ['K', 'S', 'B', 'Y', 'T', 'E']
  | .KSXOR => ['K', 'S', 'X', 'O', 'R']
  | .BSADV => ['B', 'S', 'A', 'D', 'V']
  | .BLKFWD => ['B', 'L', 'K', 'F', 'W', 'D']
  | .BLKINV => ['B', 'L', 'K', 'I', 'N', 'V']
  | .TSADV => ['T', 'S', 'A', 'D', 'V']
  | .ROT13 => ['R', 'O', 'T', '1', '3']
  | .BROTL => ['B', 'R', 'O', 'T', 'L']
  | .BROTR => ['B', 'R', 'O', 'T', 'R']
  | .XBENC => ['X', 'B', 'E', 'N', 'C']
  | .XBDEC => ['X', 'B', 'D', 'E', 'C']
  | .XFENC => ['X', 'F', 'E', 'N', 'C']
  | .XFDEC => ['X', 'F', 'D', 'E', 'C']
  | .ENCODE => ['E', 'N', 'C', 'O', 'D', 'E']
  | .DECODE => ['D', 'E', 'C', 'O', 'D', 'E']

/-- Every mnemonic, in the order of 30_encoding.md R85. -/
def allMnemonics : List Mnemonic :=
  [.NOP, .KEYCLR, .KEYPUSH, .SEED, .STEPCLR, .NEXT, .KSBYTE, .KSXOR, .BSADV, .BLKFWD, .BLKINV,
   .TSADV, .ROT13, .BROTL, .BROTR, .XBENC, .XBDEC, .XFENC, .XFDEC, .ENCODE, .DECODE]

/-- The register names that may stand for offsets (30_encoding.md R91). -/
def registerNames : List (List Char × Nat) :=
  [(['C', 'M', 'D'], 0x000), (['S', 'T', 'A', 'T', 'U', 'S'], 0x004), (['K', 'E', 'Y'], 0x008),
   (['K', 'C', 'N', 'T'], 0x00C), (['L', 'E', 'N'], 0x010), (['S', 'E', 'E', 'D'], 0x014), (['X'], 0x018),
   (['R', 'E', 'S', 'U', 'L', 'T'], 0x01C), (['S', 'T', 'E', 'P'], 0x020)]

/-- The value of a digit. -/
def digitValue (c : Char) : Option Nat :=
  let v := c.toNat
  if 48 ≤ v ∧ v ≤ 57 then some (v - 48)
  else if 65 ≤ v ∧ v ≤ 70 then some (v - 55)
  else if 97 ≤ v ∧ v ≤ 102 then some (v - 87)
  else none

/-- The digits of a number in a radix, after the value read so far. -/
def readDigits (radix : Nat) : Nat → List Char → Option Nat
  | acc, [] => some acc
  | acc, c :: cs =>
    match digitValue c with
    | some d => if d < radix then readDigits radix (acc * radix + d) cs else none
    | none => none

/-- A number in decimal or `0x` hexadecimal (30_encoding.md R90). -/
def readNumber : List Char → Option Nat
  | [] => none
  | '0' :: 'x' :: [] => none
  | '0' :: 'x' :: cs => readDigits 16 0 cs
  | cs => readDigits 10 0 cs

/-- An offset: a number, a register name, or `BUF+j` for 0x100 + j (30_encoding.md R91). -/
def readOffset (cs : List Char) : Option Nat :=
  match registerNames.find? (fun row => row.1 == cs) with
  | some row => some row.2
  | none =>
    match cs with
    | 'B' :: 'U' :: 'F' :: '+' :: ds => (readNumber ds).map (0x100 + ·)
    | _ => readNumber cs

/-- The text without the blanks at its ends. -/
def trimBlanks (cs : List Char) : List Char :=
  ((cs.dropWhile (· == ' ')).reverse.dropWhile (· == ' ')).reverse

/-- The pieces between commas. -/
def splitCommas : List Char → List (List Char)
  | [] => [[]]
  | c :: cs =>
    match splitCommas cs with
    | [] => [[c]]
    | w :: ws => if c == ',' then [] :: w :: ws else (c :: w) :: ws

/-- The operands of a line: none, or pieces separated by commas. -/
def operandTexts (cs : List Char) : List (List Char) :=
  if (trimBlanks cs).isEmpty then [] else (splitCommas cs).map trimBlanks

/-- Read every operand as a number. -/
def readNumbers : List (List Char) → Option (List Nat)
  | [] => some []
  | w :: ws => (readNumber w).bind fun v => (readNumbers ws).map fun vs => v :: vs

/-- A host transaction or pseudo-instruction line (30_encoding.md R91, R92); `none` when the name is not one of them or
its operands do not fit. -/
def readHostLine (name : List Char) (ws : List (List Char)) : Option AsmLine :=
  match name, ws with
  | ['R', 'D', '8'], [o] => (readOffset o).map (AsmLine.read 1)
  | ['R', 'D', '1', '6'], [o] => (readOffset o).map (AsmLine.read 2)
  | ['R', 'D', '3', '2'], [o] => (readOffset o).map (AsmLine.read 4)
  | ['W', 'R', '8'], [o, v] => (readOffset o).bind fun off => (readNumber v).map (AsmLine.write 1 off)
  | ['W', 'R', '1', '6'], [o, v] => (readOffset o).bind fun off => (readNumber v).map (AsmLine.write 2 off)
  | ['W', 'R', '3', '2'], [o, v] => (readOffset o).bind fun off => (readNumber v).map (AsmLine.write 4 off)
  | ['S', 'E', 'T', 'K', 'E', 'Y'], ws =>
    match readNumbers ws with
    | some [b0, b1, b2, b3] => some (.setkey b0 b1 b2 b3)
    | _ => none
  | ['S', 'E', 'T', 'L', 'E', 'N'], [v] => (readNumber v).map .setlen
  | ['S', 'E', 'T', 'X'], [v] => (readNumber v).map .setx
  | ['L', 'O', 'A', 'D', 'B', 'U', 'F'], ws =>
    match readNumbers ws with
    | some (j :: b :: bs) => some (.loadbuf j (b :: bs))
    | _ => none
  | ['C', 'H', 'E', 'C', 'K'], [] => some .check
  | _, _ => none

/-- Read one line of text; `none` is an assembly error. -/
def readLine (line : List Char) : Option AsmLine :=
  let cs := trimBlanks line
  let name := cs.takeWhile (· != ' ')
  let ws := operandTexts (cs.dropWhile (· != ' '))
  match cs with
  | [] => some .comment
  | ';' :: _ => some .comment
  | _ =>
    match allMnemonics.find? (fun m => mnemonicName m == name) with
    | some m => (readNumbers ws).map fun vs => .command ⟨m, vs⟩
    | none => readHostLine name ws

/-- The transactions of a program text, line by line; `none` is an assembly error. -/
def assembleText (lines : List (List Char)) : Option (List HostEvent) :=
  joinAll (lines.map fun l => (readLine l).bind AsmLine.expand)

end Sys2Proof.Machine
end

