-- ==== Sys2Proof/Machine/Program.lean ====
section
/-! DEFINITION. Host programs and what is observed of them (70_reset_and_hazards.md R260), and the orders in which the
transactions of two bus masters can reach one CORE (20_memory.md R62, R257). -/

namespace Sys2Proof.Machine

/-- The observation of a host program (70_reset_and_hazards.md R260): its responses, the final registers, and the BUF
bytes written since reset; it says nothing "about BUF bytes the program never wrote since reset". -/
structure Observation where
  responses : List Response
  key : Key
  kcnt : BitVec 4
  seed : Word
  x : Word
  len : BitVec 16
  result : Word
  bstep : BitVec 3
  tstep : BitVec 3
  errcode : BitVec 3
  written : Memory
  faulted : Bool
  deriving DecidableEq, Repr

/-- What is observed of a state in which a program has ended, or at which it is faulted. -/
def State.observe (s : State) (responses : List Response) (faulted : Bool) : Observation where
  responses := responses
  key := s.key
  kcnt := s.kcnt
  seed := s.seed
  x := s.x
  len := s.len
  result := s.result
  bstep := s.bstep
  tstep := s.tstep
  errcode := s.errcode
  written := s.buf
  faulted := faulted

/-- Run a host program, one event after the other; "a program whose transaction ends in a bus error is faulted at that
transaction" (70_reset_and_hazards.md R260), with CORE's state as it was (20_memory.md R54). -/
def runProgram : List HostEvent → State → Observation
  | [], s => s.observe s.responses false
  | e :: es, s =>
    match perform e s with
    | .next s' => runProgram es s'
    | .fault _ => s.observe (s.responses ++ [.busError]) true
    | .refused _ => s.observe s.responses true

/-- A state with a program to perform: how a program is loaded (log 2). -/
def State.load (s : State) (program : List HostEvent) : State := s.setPending program

/-- `Interleaving a b c`: `c` is an order in which the interconnect can deliver the transactions of two masters that
issue `a` and `b`, each in its own order (20_memory.md R62: "a model admits every interleaving"; log 12). -/
inductive Interleaving : List HostEvent → List HostEvent → List HostEvent → Prop where
  | done : Interleaving [] [] []
  | first {a b c : List HostEvent} (e : HostEvent) : Interleaving a b c → Interleaving (e :: a) b (e :: c)
  | second {a b c : List HostEvent} (e : HostEvent) : Interleaving a b c → Interleaving a (e :: b) (e :: c)

end Sys2Proof.Machine
end

