-- ==== Sys2Proof/Safety.lean ====
section
/-! DEFINITION. The terms claims use: when a run is safe (no bus error), which states a run can be in, and the sequences
of 42_keystream.md R140, 43_block_rotation.md R167 and 44_byte_transform.md R193 written as the spec writes them. -/

namespace Sys2Proof.Safety

open Sys2Proof.Machine

/-! ### Which transactions complete -/

/-- A host transaction that completes OK, read off the map of 10_state.md R33 and 20_memory.md R51..R53: a 32-bit
access to a register that permits it, or a naturally aligned access of 1, 2 or 4 bytes inside the window. -/
def busLegal : HostEvent → Bool
  | .read off n =>
    (n == 4 && [0x004, 0x008, 0x00C, 0x010, 0x014, 0x018, 0x01C, 0x020].contains off) || inWindow off n
  | .write off n _ => (n == 4 && [0x000, 0x010, 0x018].contains off) || inWindow off n
  | .reset => true
where
  /-- The access lies in offsets 0x100..0x100+N_MAX-1 and is naturally aligned. -/
  inWindow (off n : Nat) : Bool :=
    [1, 2, 4].contains n && decide (0x100 ≤ off) && (off - 0x100) % n == 0 && decide (off + n ≤ 0x100 + Config.nMax)

/-- A host program none of whose transactions is a bus error. -/
def programLegal (p : List HostEvent) : Bool := p.all busLegal

/-! ### States a run can be in -/

/-- A key byte that has not been pushed since the last KEYCLR or reset is 0x00 (10_state.md R25, R36; 40 R101, R102). -/
def unpushedKeyZero (s : State) : Prop :=
  (s.kcnt.toNat ≤ 0 → s.key.k0 = 0#8) ∧ (s.kcnt.toNat ≤ 1 → s.key.k1 = 0#8) ∧
  (s.kcnt.toNat ≤ 2 → s.key.k2 = 0#8) ∧ (s.kcnt.toNat ≤ 3 → s.key.k3 = 0#8)

/-- The invariant of every run: BUF in its canonical form, ERRCODE one of 0..3 ("values 4..7 are never written",
10_state.md R31), and unpushed key bytes zero. -/
structure Inv (s : State) : Prop where
  bufWf : s.buf.wf = true
  errcodeLegal : s.errcode.toNat ≤ 3
  keyZero : unpushedKeyZero s

/-! ### The sequences of the spec -/

/-- `state_i` of seed `v`: state_0 = next(v), state_{i+1} = next(state_i) (42_keystream.md R140). -/
def keystreamState (v : Word) : Nat → Word
  | 0 => genNext v
  | i + 1 => genNext (keystreamState v i)

/-- `ks(v, i) = low8(state_i)` (42_keystream.md R140). -/
def keystreamByte (v : Word) (i : Nat) : Byte := low8 (keystreamState v i)

/-- The block counter after `m` updates from 0: 0, 4, 1, 5, 2, 6, 3, 7, 4, ... (43_block_rotation.md R160, R167). -/
def blockCounter : Nat → BitVec 3
  | 0 => 0#3
  | m + 1 => blockAdv (blockCounter m)

/-- The byte-transform counter after `n` updates from 0: 0, 5, 3, 1, 6, 4, 2, 7, 5, ... (44_byte_transform.md R182, R193). -/
def byteCounter : Nat → BitVec 3
  | 0 => 0#3
  | n + 1 => byteAdv (byteCounter n)

/-- X after a whole keystream of `n` bytes from seed `v`: v itself when n = 0, else state_{n-1} (42_keystream.md R146). -/
def keystreamEnd (v : Word) : Nat → Word
  | 0 => v
  | n + 1 => keystreamState v n

/-! ### Legal words and completion codes -/

/-- The (match, mask) rows of 30_encoding.md R85, in its order. -/
def opcodeRows : List (Word × Word) :=
  [(0x00000000#32, 0xFFFFFFFF#32), (0x01000000#32, 0xFFFFFFFF#32), (0x02000000#32, 0xFFFFFF00#32),
   (0x03000000#32, 0xFFFFFFFF#32), (0x04000000#32, 0xFFFFFFFF#32), (0x08000000#32, 0xFFFFFFFF#32),
   (0x09000000#32, 0xFFFFFFFF#32), (0x0A000000#32, 0xFFFFFFFF#32), (0x10000000#32, 0xFFFFFFFF#32),
   (0x11000000#32, 0xFFFFFFFF#32), (0x12000000#32, 0xFFFFFFFF#32)] ++
  [(0x18000000#32, 0xFFFFFFFF#32), (0x19000000#32, 0xFFFFFF00#32), (0x1A000000#32, 0xFFFFF800#32),
   (0x1B000000#32, 0xFFFFF800#32), (0x1C000000#32, 0xFFFFF000#32), (0x1D000000#32, 0xFFFFF000#32),
   (0x1E000000#32, 0xFFFFFFFF#32), (0x1F000000#32, 0xFFFFFFFF#32), (0x20000000#32, 0xFFFFFFFF#32),
   (0x21000000#32, 0xFFFFFFFF#32)]

/-- `w AND mask = match` for a row (30_encoding.md R87). -/
def rowMatches (w : Word) (row : Word × Word) : Prop := w &&& row.2 = row.1

/-- The commands that raise INVALID_KEY_LENGTH (60_exceptions.md R231). -/
def usesKey (i : Instr) : Prop := i = .seed ∨ i = .encode ∨ i = .decode

/-- The commands that raise BAD_LENGTH: the buffer commands (60_exceptions.md R231, R233). -/
def usesLength (i : Instr) : Prop :=
  i = .ksxor ∨ i = .blkfwd ∨ i = .blkinv ∨ i = .xfenc ∨ i = .xfdec ∨ i = .encode ∨ i = .decode

/-- The command that does the rest when `o` completes: one command after the other. -/
def andThen (o : Host.Outcome State Fault Refusal) (f : State → Host.Outcome State Fault Refusal) :
    Host.Outcome State Fault Refusal :=
  match o with
  | .next s => f s
  | .fault r => .fault r
  | .refused r => .refused r

/-! ### Blocks (43_block_rotation.md R161, R163) -/

/-- The size of the block at offset `off` of a buffer of `n` bytes: min(8, n - off). -/
def blockSize (n off : Nat) : Nat := min 8 (n - off)

/-- The amount by which the block at offset `off` is rotated: the counter of that block, mod its size. -/
def blockAmount (n off : Nat) : Nat := (blockCounter (off / 8 + 1)).toNat % blockSize n off

/-- `off` is the offset of a block of a buffer of `n` bytes. -/
def isBlock (n off : Nat) : Prop := off % 8 = 0 ∧ off < n

end Sys2Proof.Safety
end

