-- ==== Sys2Proof/Certificates/Slice0/Obligations.lean ====
section
/-! DEFINITION. What the provers are asked to prove of the model. Each docstring names the rules of spec/ it formalises.
Statements about BUF speak of `byte`, the read of one buffer byte, so each holds for every value of the free bytes. -/

open Sys2Proof Sys2Proof.Machine Sys2Proof.Safety

/-! ## Encoding -/

/-- Decoding the word of any command gives the command back, with every operand (30_encoding.md R81..R85). -/
def Obligations.DecodeOfEncodeIsTheInstruction : Prop :=
  ∀ i : Instr, i.wf = true ∧ decode (encode i) = .ok i

/-- A word that decodes is the word of the instruction it decodes to: each command has one word (R87, R88). -/
def Obligations.EncodeOfDecodeIsTheWord : Prop :=
  ∀ (w : Word) (i : Instr), decode w = .ok i → encode i = w

/-- R87: a word is legal exactly when one row of R85 matches it, and that row is unique. -/
def Obligations.LegalWordsAreTheRowsOfTheTable : Prop :=
  ∀ w : Word,
    ((∃ i, decode w = .ok i) ↔ ∃ row ∈ opcodeRows, rowMatches w row) ∧
    (∀ row ∈ opcodeRows, ∀ row' ∈ opcodeRows, rowMatches w row → rowMatches w row' → row = row') ∧
    (∀ s : State, (∀ row ∈ opcodeRows, ¬rowMatches w row) → runCommand w s = .next { s with errcode := 1#3 })

/-- A word of each family, written out bit by bit from the patterns of R85, decodes to its command. -/
def Obligations.WrittenOutWordsDecode : Prop :=
  decode 0b00000000000000000000000000000000#32 = .ok .nop ∧
  decode 0b00000010000000000000000001000001#32 = .ok (.keypush 0x41#8) ∧
  decode 0b00001000000000000000000000000000#32 = .ok .next ∧
  decode 0b00001010000000000000000000000000#32 = .ok .ksxor ∧
  decode 0b00010001000000000000000000000000#32 = .ok .blkfwd ∧
  decode 0b00011010000000000000001110000001#32 = .ok (.brotl 0x81#8 3#3) ∧
  decode 0b00011100000000000000110101000001#32 = .ok (.xbenc 0x41#8 5#3 true) ∧
  decode 0b00100001000000000000000000000000#32 = .ok .decode

/-- A written command assembles exactly when its operands are in range, and then to the word of the instruction it
writes (R90). -/
def Obligations.AssemblyRoundTrip : Prop :=
  (∀ i : Instr, i.toCommand.assemble = some (encode i)) ∧
  (∀ c : Command, c.wf = true → ∃ i, c.toInstr = some i ∧ i.toCommand = c) ∧
  (∀ c : Command, c.wf = false → c.assemble = none)

/-! ## Reset, the step, and the invariant -/

/-- R36: every register is 0 after reset, and each byte of BUF is the free value drawn for it. The counter `draw` that
indexes the free values is the model's own (log 3). -/
def Obligations.ResetLeavesRegistersZeroAndBufFree : Prop :=
  State.reset.key = ⟨0x00#8, 0x00#8, 0x00#8, 0x00#8⟩ ∧ State.reset.kcnt = 0#4 ∧
  State.reset.seed = 0x00000000#32 ∧ State.reset.x = 0x00000000#32 ∧ State.reset.len = 0#16 ∧
  State.reset.result = 0x00000000#32 ∧ State.reset.bstep = 0#3 ∧ State.reset.tstep = 0#3 ∧
  State.reset.errcode = 0#3 ∧ ∀ j, State.reset.byte j = Config.bufAtReset State.reset.draw j

/-- The reset event sets every register to its reset value and draws every byte of BUF afresh, from any state. The
counter `draw`, by which the bytes are drawn afresh, is the model's own choice (log 3), as are the pending list (log 1) and
what the event keeps of the host's side of the port (log 9). -/
def Obligations.ResetEventReturnsToResetValues : Prop :=
  ∀ (s : State) (es : List HostEvent), s.pending = .reset :: es →
    ∃ t, step s = .next t ∧
      t = { State.reset with draw := s.draw + 1, pending := es, responses := s.responses } ∧
      ∀ j, t.byte j = Config.bufAtReset (s.draw + 1) j

/-- R80: a write of a legal word to CMD executes the command it encodes, before the write completes (the response is the
model's own record, log 8; the pending list is log 1). -/
def Obligations.StepRunsTheDecodedCommand : Prop :=
  ∀ (s : State) (es : List HostEvent) (w : Word) (i : Instr),
    s.pending = .write 0x000 4 w :: es → decode w = .ok i → i.wf = true →
    step s = andThen (exec i { s with pending := es }) fun t =>
      .next { t with responses := t.responses ++ [.ok] }

/-- A write of an illegal word to CMD sets ERRCODE <- ILLEGAL_CMD and changes nothing else of CORE (R232); the write itself
completes OK. The response is the model's own record (log 8), the pending list is log 1. -/
def Obligations.StepOfAnIllegalWordSetsIllegalCmd : Prop :=
  ∀ (s : State) (es : List HostEvent) (w : Word) (r : DecodeError),
    s.pending = .write 0x000 4 w :: es → decode w = .error r →
    step s = .next { s with errcode := 1#3, pending := es, responses := s.responses ++ [.ok] }

/-- The invariant holds at reset: ERRCODE and the key bytes as the spec says (R25, R31, R36), and the buffer memory in its
canonical form, which is the model's own choice (log 4). -/
def Obligations.InvariantAtReset : Prop := Inv State.reset

/-- Every step keeps the invariant, from every state that meets it: BUF in canonical form (the model's own choice, log 4),
ERRCODE one of 0..3 (R31, R231; no fault for the others is log 11), and a key byte not yet pushed is 0x00 (R25, R101,
R102). -/
def Obligations.EveryStepKeepsTheInvariant : Prop :=
  ∀ s t : State, Inv s → step s = .next t → Inv t

/-- With nothing pending CORE is idle and holds its state; the step of a state with something pending takes exactly the
oldest event off the list. The list and the record of responses are the model's own choice (log 1, log 8). -/
def Obligations.StepTakesTheOldestEvent : Prop :=
  (∀ s : State, s.pending = [] → step s = .next s) ∧
  (∀ (s t : State) (e : HostEvent) (es : List HostEvent), s.pending = e :: es → step s = .next t →
    t.pending = es ∧ (e = .reset ∧ t.responses = s.responses ∨
      e ≠ .reset ∧ ∃ r, r ≠ .busError ∧ t.responses = s.responses ++ [r]))

/-! ## Completion codes and errors -/

/-- R236 with R231: every command write ends with exactly one code, the first that applies of ILLEGAL_CMD,
INVALID_KEY_LENGTH and BAD_LENGTH, else OK; every command terminates (R258). -/
def Obligations.EveryCommandCompletesWithTheFirstCode : Prop :=
  ∀ (w : Word) (s : State), ∃ t, runCommand w s = .next t ∧
    ((∃ r, decode w = .error r) → t.errcode = 1#3) ∧
    (∀ i, decode w = .ok i → usesKey i → s.kcnt ≠ 4#4 → t.errcode = 2#3) ∧
    (∀ i, decode w = .ok i → (usesKey i → s.kcnt = 4#4) → usesLength i → Config.nMax < s.len.toNat →
      t.errcode = 3#3) ∧
    (∀ i, decode w = .ok i → (usesKey i → s.kcnt = 4#4) → (usesLength i → s.len.toNat ≤ Config.nMax) →
      t.errcode = 0#3)

/-- R237: a command that raises an error writes ERRCODE and nothing else. -/
def Obligations.ErrorsArePrecise : Prop :=
  ∀ (w : Word) (s t : State), runCommand w s = .next t → t.errcode ≠ 0#3 →
    t = { s with errcode := t.errcode }

/-- R233, R234, R106: SEED, ENCODE and DECODE with KCNT ≠ 4 set ERRCODE <- INVALID_KEY_LENGTH, and a buffer command with
LEN > N_MAX sets ERRCODE <- BAD_LENGTH (ENCODE and DECODE after the key check, R236); nothing else changes. No scalar
command looks at LEN. -/
def Obligations.FailedChecksChangeOnlyErrcode : Prop :=
  (∀ (i : Instr) (s : State), usesKey i → s.kcnt ≠ 4#4 → exec i s = .next { s with errcode := 2#3 }) ∧
  (∀ (i : Instr) (s : State), usesLength i → (usesKey i → s.kcnt = 4#4) → Config.nMax < s.len.toNat →
    exec i s = .next { s with errcode := 3#3 }) ∧
  (∀ (i : Instr) (s : State) (n : BitVec 16), ¬usesLength i →
    exec i { s with len := n } = andThen (exec i s) fun t => .next { t with len := n })

/-! ## Control and key commands -/

/-- R100, R89: NOP sets ERRCODE to OK; it is the only effect. -/
def Obligations.NopSetsErrcodeOkOnly : Prop :=
  decode 0x00000000#32 = .ok .nop ∧ ∀ s : State, exec .nop s = .next { s with errcode := 0#3 }

/-- R101: KEYCLR clears the key bytes and the count. -/
def Obligations.KeyclrDiscardsThePrefix : Prop :=
  decode 0x01000000#32 = .ok .keyclr ∧
  ∀ s : State, exec .keyclr s =
    .next { s with key := ⟨0x00#8, 0x00#8, 0x00#8, 0x00#8⟩, kcnt := 0#4, errcode := 0#3 }

/-- R102: KEYPUSH stores the byte at KEY[KCNT] while KCNT < 4, and counts it, saturating at 15. -/
def Obligations.KeypushAppendsOrOnlyCounts : Prop :=
  (∀ imm8 : Byte, decode (0x02000000#32 ||| imm8.setWidth 32) = .ok (.keypush imm8)) ∧
  ∀ (imm8 : Byte) (s : State),
    (s.kcnt = 0#4 → exec (.keypush imm8) s =
      .next { s with key := { s.key with k0 := imm8 }, kcnt := 1#4, errcode := 0#3 }) ∧
    (s.kcnt = 1#4 → exec (.keypush imm8) s =
      .next { s with key := { s.key with k1 := imm8 }, kcnt := 2#4, errcode := 0#3 }) ∧
    (s.kcnt = 2#4 → exec (.keypush imm8) s =
      .next { s with key := { s.key with k2 := imm8 }, kcnt := 3#4, errcode := 0#3 }) ∧
    (s.kcnt = 3#4 → exec (.keypush imm8) s =
      .next { s with key := { s.key with k3 := imm8 }, kcnt := 4#4, errcode := 0#3 }) ∧
    (4 ≤ s.kcnt.toNat → s.kcnt.toNat < 15 → exec (.keypush imm8) s =
      .next { s with kcnt := s.kcnt + 1#4, errcode := 0#3 }) ∧
    (s.kcnt = 15#4 → exec (.keypush imm8) s = .next { s with kcnt := 15#4, errcode := 0#3 })

/-- R103, R104: SEED derives SEED by little-endian assembly of the key bytes and loads X, when KCNT = 4; else it fails
with INVALID_KEY_LENGTH. The seed function is total, and read as signed it is negative exactly when b3 ≥ 0x80. -/
def Obligations.SeedDerivesAndLoads : Prop :=
  decode 0x03000000#32 = .ok .seed ∧
  (∀ b0 b1 b2 b3 : Byte,
    (seedOf b0 b1 b2 b3).toNat = b0.toNat + b1.toNat * 2 ^ 8 + b2.toNat * 2 ^ 16 + b3.toNat * 2 ^ 24 ∧
    ((seedOf b0 b1 b2 b3).toInt < 0 ↔ 0x80 ≤ b3.toNat)) ∧
  ∀ s : State,
    (s.kcnt = 4#4 → ∃ v : Word,
      v.toNat = s.key.k0.toNat + s.key.k1.toNat * 2 ^ 8 + s.key.k2.toNat * 2 ^ 16 + s.key.k3.toNat * 2 ^ 24 ∧
      exec .seed s = .next { s with seed := v, x := v, errcode := 0#3 }) ∧
    (s.kcnt ≠ 4#4 → exec .seed s = .next { s with errcode := 2#3 })

/-- R105: STEPCLR zeroes both counters. -/
def Obligations.StepclrZeroesBothCounters : Prop :=
  decode 0x04000000#32 = .ok .stepclr ∧
  ∀ s : State, exec .stepclr s = .next { s with bstep := 0#3, tstep := 0#3, errcode := 0#3 }

/-- The four KEYPUSHes of SETKEY after KEYCLR (R92, R252) load the key and make KCNT 4, whatever was there before. -/
def Obligations.SetkeyLoadsTheWholePrefix : Prop :=
  ∀ (b0 b1 b2 b3 : Byte) (s : State),
    AsmLine.expand (.setkey b0.toNat b1.toNat b2.toNat b3.toNat) =
      some [.write 0x000 4 0x01000000#32, .write 0x000 4 (0x02000000#32 ||| b0.setWidth 32),
        .write 0x000 4 (0x02000000#32 ||| b1.setWidth 32), .write 0x000 4 (0x02000000#32 ||| b2.setWidth 32),
        .write 0x000 4 (0x02000000#32 ||| b3.setWidth 32)] ∧
    andThen (andThen (andThen (andThen (exec .keyclr s) (exec (.keypush b0))) (exec (.keypush b1)))
      (exec (.keypush b2))) (exec (.keypush b3)) =
      .next { s with key := ⟨b0, b1, b2, b3⟩, kcnt := 4#4, errcode := 0#3 }

/-! ## Generator and keystream -/

/-- R120, R121: the four constants with their signed readings, and `next` in wraparound products and circular rotations:
left 13, right 5, left 24, right 17. -/
def Obligations.GeneratorStepFormula : Prop :=
  (genC1 = 0xE8601017#32 ∧ genC1.toInt = -0x179FEFE9 ∧ genC2 = 0x9AA454EF#32 ∧ genC2.toInt = -0x655BAB11 ∧
    genC3 = 0xA94DC8CF#32 ∧ genC3.toInt = -0x56B23731 ∧ genC4 = 0xDA41C486#32 ∧ genC4.toInt = -0x25BE3B7A) ∧
  ∀ x : Word,
    let p := x * 0xE8601017#32
    let a := p ^^^ p.rotateLeft 13
    let s1 := a * 0x9AA454EF#32
    let b := s1 ^^^ s1.rotateRight 5
    let s2 := b * 0xA94DC8CF#32
    let c := s2 ^^^ s2.rotateLeft 24
    let s3 := c * 0xDA41C486#32
    genNext x = s3 ^^^ s3.rotateRight 17

/-- R124, R125: `next` maps 0 to 0, so the keystream of seed 0 is all zero; it is not injective, since C4 is even, since
v XOR rot(v, k) maps 0 and 0xFFFFFFFF to 0, and since next(0xD491D859) = 0 with 0xD491D859 *32 C1 = 0xFFFFFFFF. -/
def Obligations.GeneratorIsNotInjective : Prop :=
  genNext 0#32 = 0#32 ∧ (∀ i, keystreamByte 0#32 i = 0#8) ∧
  genC4.toNat % 2 = 0 ∧ (∀ x : Word, mul32 (x + 0x80000000#32) genC4 = mul32 x genC4) ∧
  (∀ k, 1 ≤ k → k ≤ 31 → 0#32 ^^^ rotl32 0#32 k = 0#32 ∧ 0#32 ^^^ rotr32 0#32 k = 0#32 ∧
    0xFFFFFFFF#32 ^^^ rotl32 0xFFFFFFFF#32 k = 0#32 ∧ 0xFFFFFFFF#32 ^^^ rotr32 0xFFFFFFFF#32 k = 0#32) ∧
  mul32 0xD491D859#32 genC1 = 0xFFFFFFFF#32 ∧ genNext 0xD491D859#32 = 0#32 ∧ ¬Function.Injective genNext

/-- R122: NEXT steps X and returns the new X in RESULT, from every state. -/
def Obligations.NextStepsTheGenerator : Prop :=
  decode 0x08000000#32 = .ok .next ∧
  ∀ s : State, exec .next s = .next { s with x := genNext s.x, result := genNext s.x, errcode := 0#3 }

/-- R142: KSBYTE steps X and returns its low byte, bits 31:8 of RESULT zero; after SEED the i-th KSBYTE returns
ks(SEED, i) and leaves X = state_i. -/
def Obligations.KsbyteReturnsTheNextKeystreamByte : Prop :=
  decode 0x09000000#32 = .ok .ksbyte ∧
  ∀ s : State, ∃ t, exec .ksbyte s = .next t ∧
    t = { s with x := genNext s.x, result := t.result, errcode := 0#3 } ∧
    t.result.toNat = (genNext s.x).toNat % 256 ∧
    (s.x = s.seed → t.x = keystreamState s.seed 0 ∧ t.result = (keystreamByte s.seed 0).setWidth 32) ∧
    (∀ i, s.x = keystreamState s.seed i →
      t.x = keystreamState s.seed (i + 1) ∧ t.result = (keystreamByte s.seed (i + 1)).setWidth 32)

/-- R143: KSXOR XORs each byte of BUF[0..LEN-1] with the keystream of SEED, and leaves the bytes at and above LEN, and
every register but X and ERRCODE, unchanged; LEN > N_MAX fails. -/
def Obligations.KsxorXorsTheKeystream : Prop :=
  decode 0x0A000000#32 = .ok .ksxor ∧
  ∀ s : State,
    (s.len.toNat ≤ Config.nMax → ∃ t, exec .ksxor s = .next t ∧
      t = { s with x := keystreamEnd s.seed s.len.toNat, buf := t.buf, errcode := 0#3 } ∧
      (∀ i, i < s.len.toNat → t.byte i = s.byte i ^^^ keystreamByte s.seed i) ∧
      (∀ j, s.len.toNat ≤ j → t.byte j = s.byte j)) ∧
    (Config.nMax < s.len.toNat → exec .ksxor s = .next { s with errcode := 3#3 })

/-- KSXOR applied twice restores the buffer (R144), from every state. -/
def Obligations.KsxorIsItsOwnInverse : Prop :=
  ∀ s : State, s.len.toNat ≤ Config.nMax →
    ∃ t u, exec .ksxor s = .next t ∧ exec .ksxor t = .next u ∧ ∀ j, u.byte j = s.byte j

/-- KSXOR, ENCODE and DECODE do not read the X they start with, nor ENCODE and DECODE the counters (R145, R211, R212). -/
def Obligations.StagesRestartTheirOwnState : Prop :=
  ∀ (s : State) (v : Word) (b b' : BitVec 3), s.len.toNat ≤ Config.nMax →
    exec .ksxor { s with x := v } = exec .ksxor s ∧
    (s.kcnt = 4#4 → exec .encode { s with x := v, bstep := b, tstep := b' } = exec .encode s ∧
      exec .decode { s with x := v, bstep := b, tstep := b' } = exec .decode s)

/-! ## Block rotation -/

/-- R160, R182: the two recurrences: their maps, and their sequences of period 7 from 0. -/
def Obligations.StepRecurrences : Prop :=
  (∀ v : BitVec 3, (blockAdv v).toNat = (v.toNat + 3) % 7 + 1) ∧
  [0#3, 1#3, 2#3, 3#3, 4#3, 5#3, 6#3, 7#3].map blockAdv = [4#3, 5#3, 6#3, 7#3, 1#3, 2#3, 3#3, 4#3] ∧
  (∀ m, blockCounter (m + 1) = [4#3, 1#3, 5#3, 2#3, 6#3, 3#3, 7#3].getD (m % 7) 0#3) ∧
  (∀ v : BitVec 3, (byteAdv v).toNat = (v.toNat + 4) % 7 + 1) ∧
  [0#3, 1#3, 2#3, 3#3, 4#3, 5#3, 6#3, 7#3].map byteAdv = [5#3, 6#3, 7#3, 1#3, 2#3, 3#3, 4#3, 5#3] ∧
  (∀ n, byteCounter (n + 1) = [5#3, 3#3, 1#3, 6#3, 4#3, 2#3, 7#3].getD (n % 7) 0#3)

/-- R162: BSADV advances BSTEP by the recurrence and returns it. -/
def Obligations.BsadvAdvancesTheBlockCounter : Prop :=
  decode 0x10000000#32 = .ok .bsadv ∧
  ∀ s : State, ∃ v : BitVec 3, v.toNat = (s.bstep.toNat + 3) % 7 + 1 ∧
    exec .bsadv s = .next { s with bstep := v, result := v.setWidth 32, errcode := 0#3 }

/-- R164: BLKFWD rotates each block left by the counter of that block mod its size: byte i of a block becomes byte
(i + a) mod B of it. Bytes at and above LEN, and every register but BSTEP and ERRCODE, are unchanged. -/
def Obligations.BlkfwdRotatesEachBlockLeft : Prop :=
  decode 0x11000000#32 = .ok .blkfwd ∧
  ∀ s : State,
    (s.len.toNat ≤ Config.nMax → ∃ t, exec .blkfwd s = .next t ∧
      t = { s with bstep := blockCounter ((s.len.toNat + 7) / 8), buf := t.buf, errcode := 0#3 } ∧
      (∀ off i, isBlock s.len.toNat off → i < blockSize s.len.toNat off →
        t.byte (off + i) =
          s.byte (off + (i + blockAmount s.len.toNat off) % blockSize s.len.toNat off)) ∧
      (∀ j, s.len.toNat ≤ j → t.byte j = s.byte j)) ∧
    (Config.nMax < s.len.toNat → exec .blkfwd s = .next { s with errcode := 3#3 })

/-- R165: BLKINV rotates each block right by the same amounts: byte (i + a) mod B of a block becomes byte i of it. -/
def Obligations.BlkinvRotatesEachBlockRight : Prop :=
  decode 0x12000000#32 = .ok .blkinv ∧
  ∀ s : State,
    (s.len.toNat ≤ Config.nMax → ∃ t, exec .blkinv s = .next t ∧
      t = { s with bstep := blockCounter ((s.len.toNat + 7) / 8), buf := t.buf, errcode := 0#3 } ∧
      (∀ off i, isBlock s.len.toNat off → i < blockSize s.len.toNat off →
        t.byte (off + (i + blockAmount s.len.toNat off) % blockSize s.len.toNat off) = s.byte (off + i)) ∧
      (∀ j, s.len.toNat ≤ j → t.byte j = s.byte j)) ∧
    (Config.nMax < s.len.toNat → exec .blkinv s = .next { s with errcode := 3#3 })

/-- R166: the two directions undo each other, block by block and as commands. -/
def Obligations.BlockRotationsAreInverse : Prop :=
  (∀ (blk : List Byte) (a : Nat), a < blk.length →
    rotInv (rotFwd blk a) a = blk ∧ rotFwd (rotInv blk a) a = blk) ∧
  ∀ s : State, s.len.toNat ≤ Config.nMax →
    (∃ t u, exec .blkfwd s = .next t ∧ exec .blkinv t = .next u ∧ ∀ j, u.byte j = s.byte j) ∧
    (∃ t u, exec .blkinv s = .next t ∧ exec .blkfwd t = .next u ∧ ∀ j, u.byte j = s.byte j)

/-! ## Byte transform -/

/-- R184: TSADV advances TSTEP by the recurrence and returns it. -/
def Obligations.TsadvAdvancesTheByteCounter : Prop :=
  decode 0x18000000#32 = .ok .tsadv ∧
  ∀ s : State, ∃ v : BitVec 3, v.toNat = (s.tstep.toNat + 4) % 7 + 1 ∧
    exec .tsadv s = .next { s with tstep := v, result := v.setWidth 32, errcode := 0#3 }

/-- R185, R180, R181: ROT13 returns the substituted byte, by the letter ranges; the substitution is its own inverse on all
byte values and keeps a letter's case. -/
def Obligations.Rot13Substitutes : Prop :=
  (∀ imm8 : Byte, decode (0x19000000#32 ||| imm8.setWidth 32) = .ok (.rot13 imm8)) ∧
  ∀ (imm8 : Byte) (s : State), ∃ r : Word,
    exec (.rot13 imm8) s = .next { s with result := r, errcode := 0#3 } ∧ r = (rot13 imm8).setWidth 32 ∧
    ((0x41 ≤ imm8.toNat ∧ imm8.toNat ≤ 0x4D ∨ 0x61 ≤ imm8.toNat ∧ imm8.toNat ≤ 0x6D) →
      r.toNat = imm8.toNat + 13) ∧
    ((0x4E ≤ imm8.toNat ∧ imm8.toNat ≤ 0x5A ∨ 0x6E ≤ imm8.toNat ∧ imm8.toNat ≤ 0x7A) →
      r.toNat + 13 = imm8.toNat) ∧
    ((imm8.toNat < 0x41 ∨ 0x5A < imm8.toNat ∧ imm8.toNat < 0x61 ∨ 0x7A < imm8.toNat) →
      r.toNat = imm8.toNat) ∧
    rot13 (rot13 imm8) = imm8 ∧
    (0x41 ≤ imm8.toNat ∧ imm8.toNat ≤ 0x5A → 0x41 ≤ (rot13 imm8).toNat ∧ (rot13 imm8).toNat ≤ 0x5A) ∧
    (0x61 ≤ imm8.toNat ∧ imm8.toNat ≤ 0x7A → 0x61 ≤ (rot13 imm8).toNat ∧ (rot13 imm8).toNat ≤ 0x7A)

/-- R186, R187: BROTL and BROTR return the byte rotated left or right by k, k = 0 included. -/
def Obligations.ByteRotationCommands : Prop :=
  (∀ (imm8 : Byte) (k : BitVec 3),
    decode (0x1A000000#32 ||| (k.setWidth 32 <<< 8) ||| imm8.setWidth 32) = .ok (.brotl imm8 k) ∧
    decode (0x1B000000#32 ||| (k.setWidth 32 <<< 8) ||| imm8.setWidth 32) = .ok (.brotr imm8 k)) ∧
  ∀ (imm8 : Byte) (k : BitVec 3) (s : State),
    exec (.brotl imm8 k) s =
      .next { s with result := (imm8.rotateLeft k.toNat).setWidth 32, errcode := 0#3 } ∧
    exec (.brotr imm8 k) s =
      .next { s with result := (imm8.rotateRight k.toNat).setWidth 32, errcode := 0#3 }

/-- R188: XBENC substitutes, then rotates left at parity 0 and right at parity 1, and so does the function the byte stage
applies (R183). -/
def Obligations.XbencSubstitutesThenRotates : Prop :=
  (∀ (imm8 : Byte) (k : BitVec 3) (p : Bool),
    decode (0x1C000000#32 ||| ((BitVec.ofBool p).setWidth 32 <<< 11) ||| (k.setWidth 32 <<< 8) |||
      imm8.setWidth 32) = .ok (.xbenc imm8 k p)) ∧
  ∀ (imm8 : Byte) (k : BitVec 3) (s : State),
    exec (.xbenc imm8 k false) s =
      .next { s with result := ((rot13 imm8).rotateLeft k.toNat).setWidth 32, errcode := 0#3 } ∧
    exec (.xbenc imm8 k true) s =
      .next { s with result := ((rot13 imm8).rotateRight k.toNat).setWidth 32, errcode := 0#3 } ∧
    ∀ amount, xenc imm8 amount false = (rot13 imm8).rotateLeft amount ∧
      xenc imm8 amount true = (rot13 imm8).rotateRight amount

/-- R189: XBDEC rotates right at parity 0 and left at parity 1, then substitutes, and so does the function the byte stage
applies (R183); it undoes XBENC. -/
def Obligations.XbdecRotatesThenSubstitutes : Prop :=
  (∀ (imm8 : Byte) (k : BitVec 3) (p : Bool),
    decode (0x1D000000#32 ||| ((BitVec.ofBool p).setWidth 32 <<< 11) ||| (k.setWidth 32 <<< 8) |||
      imm8.setWidth 32) = .ok (.xbdec imm8 k p)) ∧
  (∀ (imm8 : Byte) (k : BitVec 3) (s : State),
    exec (.xbdec imm8 k false) s =
      .next { s with result := (rot13 (imm8.rotateRight k.toNat)).setWidth 32, errcode := 0#3 } ∧
    exec (.xbdec imm8 k true) s =
      .next { s with result := (rot13 (imm8.rotateLeft k.toNat)).setWidth 32, errcode := 0#3 } ∧
    ∀ amount, xdec imm8 amount false = rot13 (imm8.rotateRight amount) ∧
      xdec imm8 amount true = rot13 (imm8.rotateLeft amount)) ∧
  ∀ (v : Byte) (k : BitVec 3) (p : Bool), xdec (xenc v k.toNat p) k.toNat p = v

/-- R190: XFENC transforms byte i with the counter's (i+1)-th value and the parity of i. Bytes at and above LEN, and every
register but TSTEP and ERRCODE, are unchanged. -/
def Obligations.XfencTransformsEachByte : Prop :=
  decode 0x1E000000#32 = .ok .xfenc ∧
  ∀ s : State,
    (s.len.toNat ≤ Config.nMax → ∃ t, exec .xfenc s = .next t ∧
      t = { s with tstep := byteCounter s.len.toNat, buf := t.buf, errcode := 0#3 } ∧
      (∀ i, i < s.len.toNat → t.byte i = xenc (s.byte i) (byteCounter (i + 1)).toNat (i % 2 == 1)) ∧
      (∀ j, s.len.toNat ≤ j → t.byte j = s.byte j)) ∧
    (Config.nMax < s.len.toNat → exec .xfenc s = .next { s with errcode := 3#3 })

/-- R191: XFDEC does the same in the decode direction, with the identical counter sequence. -/
def Obligations.XfdecTransformsEachByte : Prop :=
  decode 0x1F000000#32 = .ok .xfdec ∧
  ∀ s : State,
    (s.len.toNat ≤ Config.nMax → ∃ t, exec .xfdec s = .next t ∧
      t = { s with tstep := byteCounter s.len.toNat, buf := t.buf, errcode := 0#3 } ∧
      (∀ i, i < s.len.toNat → t.byte i = xdec (s.byte i) (byteCounter (i + 1)).toNat (i % 2 == 1)) ∧
      (∀ j, s.len.toNat ≤ j → t.byte j = s.byte j)) ∧
    (Config.nMax < s.len.toNat → exec .xfdec s = .next { s with errcode := 3#3 })

/-- R192: the two directions are inverse, per byte for every amount and parity, and as commands. -/
def Obligations.ByteTransformsAreInverse : Prop :=
  (∀ (v : Byte) (k : Nat) (p : Bool), xdec (xenc v k p) k p = v ∧ xenc (xdec v k p) k p = v) ∧
  ∀ s : State, s.len.toNat ≤ Config.nMax →
    (∃ t u, exec .xfenc s = .next t ∧ exec .xfdec t = .next u ∧ ∀ j, u.byte j = s.byte j) ∧
    (∃ t u, exec .xfdec s = .next t ∧ exec .xfenc t = .next u ∧ ∀ j, u.byte j = s.byte j)

/-- R194: the byte rotation laws; rotating by k and then by (8 - k) mod 8 the other way is the identity only for k = 0 and
k = 4 (90_conflicts.md C1). -/
def Obligations.ByteRotationLaws : Prop :=
  ∀ k, k ≤ 7 →
    (∀ v : Byte, rotr8 (rotl8 v k) k = v ∧ rotl8 (rotr8 v k) k = v ∧ rotl8 (rotl8 v k) ((8 - k) % 8) = v) ∧
    ((∀ v : Byte, rotr8 (rotl8 v k) ((8 - k) % 8) = v) ↔ k = 0 ∨ k = 4) ∧
    ((∀ v : Byte, rotl8 (rotr8 v k) ((8 - k) % 8) = v) ↔ k = 0 ∨ k = 4)

/-! ## Pipeline -/

/-- R211: ENCODE. Byte i of the block at off becomes the encoded byte (i + a) mod B of that block, XORed with the keystream
byte of position off + i; SEED, X and both counters are as the stages leave them, everything else is unchanged. -/
def Obligations.EncodeEncrypts : Prop :=
  decode 0x20000000#32 = .ok .encode ∧
  ∀ s : State,
    (s.kcnt = 4#4 → s.len.toNat ≤ Config.nMax → ∃ t v, exec .encode s = .next t ∧
      v = seedOf s.key.k0 s.key.k1 s.key.k2 s.key.k3 ∧
      t = { s with seed := v, x := keystreamEnd v s.len.toNat, tstep := byteCounter s.len.toNat,
                   bstep := blockCounter ((s.len.toNat + 7) / 8), buf := t.buf, errcode := 0#3 } ∧
      (∀ off i, isBlock s.len.toNat off → i < blockSize s.len.toNat off →
        let j := off + (i + blockAmount s.len.toNat off) % blockSize s.len.toNat off
        t.byte (off + i) =
          xenc (s.byte j) (byteCounter (j + 1)).toNat (j % 2 == 1) ^^^ keystreamByte v (off + i)) ∧
      (∀ j, s.len.toNat ≤ j → t.byte j = s.byte j)) ∧
    (s.kcnt ≠ 4#4 → exec .encode s = .next { s with errcode := 2#3 }) ∧
    (s.kcnt = 4#4 → Config.nMax < s.len.toNat → exec .encode s = .next { s with errcode := 3#3 })

/-- R212: DECODE, the other way round. -/
def Obligations.DecodeDecrypts : Prop :=
  decode 0x21000000#32 = .ok .decode ∧
  ∀ s : State,
    (s.kcnt = 4#4 → s.len.toNat ≤ Config.nMax → ∃ t v, exec .decode s = .next t ∧
      v = seedOf s.key.k0 s.key.k1 s.key.k2 s.key.k3 ∧
      t = { s with seed := v, x := keystreamEnd v s.len.toNat, tstep := byteCounter s.len.toNat,
                   bstep := blockCounter ((s.len.toNat + 7) / 8), buf := t.buf, errcode := 0#3 } ∧
      (∀ off i, isBlock s.len.toNat off → i < blockSize s.len.toNat off →
        let j := off + (i + blockAmount s.len.toNat off) % blockSize s.len.toNat off
        t.byte j =
          xdec (s.byte (off + i) ^^^ keystreamByte v (off + i)) (byteCounter (j + 1)).toNat (j % 2 == 1)) ∧
      (∀ j, s.len.toNat ≤ j → t.byte j = s.byte j)) ∧
    (s.kcnt ≠ 4#4 → exec .decode s = .next { s with errcode := 2#3 }) ∧
    (s.kcnt = 4#4 → Config.nMax < s.len.toNat → exec .decode s = .next { s with errcode := 3#3 })

/-- R213: ENCODE then DECODE restores the buffer, and DECODE then ENCODE does too; both end in the same SEED, X, BSTEP and
TSTEP. -/
def Obligations.RoundTrip : Prop :=
  ∀ s : State, s.kcnt = 4#4 → s.len.toNat ≤ Config.nMax →
    ∃ t u t' u', exec .encode s = .next t ∧ exec .decode t = .next u ∧
      exec .decode s = .next t' ∧ exec .encode t' = .next u' ∧
      (∀ j, u.byte j = s.byte j) ∧ (∀ j, u'.byte j = s.byte j) ∧
      u.seed = t.seed ∧ u.x = t.x ∧ u.bstep = t.bstep ∧ u.tstep = t.tstep ∧
      u'.seed = t'.seed ∧ u'.x = t'.x ∧ u'.bstep = t'.bstep ∧ u'.tstep = t'.tstep ∧
      t'.seed = t.seed ∧ t'.x = t.x ∧ t'.bstep = t.bstep ∧ t'.tstep = t.tstep

/-- R214: with LEN = 0 and KCNT = 4, ENCODE and DECODE derive SEED, load X, zero both counters and leave BUF unchanged. -/
def Obligations.ZeroLengthAppliesNoStage : Prop :=
  ∀ s : State, s.kcnt = 4#4 → s.len = 0#16 → ∃ v : Word,
    v = seedOf s.key.k0 s.key.k1 s.key.k2 s.key.k3 ∧
    exec .encode s = .next { s with seed := v, x := v, bstep := 0#3, tstep := 0#3, errcode := 0#3 } ∧
    exec .decode s = .next { s with seed := v, x := v, bstep := 0#3, tstep := 0#3, errcode := 0#3 }

/-- R215: what ENCODE and DECODE leave is a function of KEY, KCNT, LEN and BUF[0..LEN-1] alone. -/
def Obligations.PipelineReadsNothingElse : Prop :=
  ∀ (i : Instr) (s s' : State), i = .encode ∨ i = .decode →
    s.key = s'.key → s.kcnt = s'.kcnt → s.len = s'.len → (∀ j, j < s.len.toNat → s.byte j = s'.byte j) →
    ∃ t t', exec i s = .next t ∧ exec i s' = .next t' ∧ t.errcode = t'.errcode ∧
      (∀ j, j < s.len.toNat → t.byte j = t'.byte j) ∧
      (t.errcode = 0#3 → t.seed = t'.seed ∧ t.x = t'.x ∧ t.bstep = t'.bstep ∧ t.tstep = t'.tstep)

/-- R216: when the checks pass, ENCODE leaves exactly the state of SEED; XFENC; BLKFWD; KSXOR and DECODE that of SEED;
KSXOR; BLKINV; XFDEC, ERRCODE = OK and RESULT unchanged; when one fails, they change nothing but ERRCODE. -/
def Obligations.PipelineEqualsItsStages : Prop :=
  ∀ s : State,
    (s.kcnt = 4#4 → s.len.toNat ≤ Config.nMax →
      exec .encode s = andThen (andThen (andThen (exec .seed s) (exec .xfenc)) (exec .blkfwd)) (exec .ksxor) ∧
      exec .decode s = andThen (andThen (andThen (exec .seed s) (exec .ksxor)) (exec .blkinv)) (exec .xfdec) ∧
      ∃ t u, exec .encode s = .next t ∧ exec .decode s = .next u ∧ t.errcode = 0#3 ∧ u.errcode = 0#3 ∧
        t.result = s.result ∧ u.result = s.result) ∧
    (¬(s.kcnt = 4#4 ∧ s.len.toNat ≤ Config.nMax) → ∃ c c' : BitVec 3,
      exec .encode s = .next { s with errcode := c } ∧ exec .decode s = .next { s with errcode := c' })

/-- R146, R167, R193: what a successful stage leaves in its register: X is SEED for LEN = 0, else state_{LEN-1}; BSTEP is the
⌈LEN/8⌉-th value of 4, 1, 5, 2, 6, 3, 7 (period 7), or 0; TSTEP the LEN-th of 5, 3, 1, 6, 4, 2, 7 (period 7), or 0. -/
def Obligations.RegistersAfterAStage : Prop :=
  ∀ (i : Instr) (s t : State), exec i s = .next t → t.errcode = 0#3 →
    (i = .ksxor ∨ i = .encode ∨ i = .decode →
      (s.len.toNat = 0 → t.x = t.seed) ∧ (1 ≤ s.len.toNat → t.x = keystreamState t.seed (s.len.toNat - 1))) ∧
    (i = .blkfwd ∨ i = .blkinv ∨ i = .encode ∨ i = .decode →
      (s.len.toNat = 0 → t.bstep = 0#3) ∧ (1 ≤ s.len.toNat → t.bstep =
        [4#3, 1#3, 5#3, 2#3, 6#3, 3#3, 7#3].getD (((s.len.toNat + 7) / 8 - 1) % 7) 0#3)) ∧
    (i = .xfenc ∨ i = .xfdec ∨ i = .encode ∨ i = .decode →
      (s.len.toNat = 0 → t.tstep = 0#3) ∧ (1 ≤ s.len.toNat → t.tstep =
        [5#3, 3#3, 1#3, 6#3, 4#3, 2#3, 7#3].getD ((s.len.toNat - 1) % 7) 0#3))

/-! ## Who writes what -/

/-- The write matrix of 10_state.md R35, as a bound on every command: a piece of state changes only under a command whose
row marks it, BUF only below LEN. No command writes the model's own fields (log 1, log 3, log 8). -/
def Obligations.CommandsWriteOnlyTheirRow : Prop :=
  ∀ (i : Instr) (s t : State), exec i s = .next t →
    (t.key ≠ s.key → i = .keyclr ∨ ∃ b, i = .keypush b) ∧
    (t.kcnt ≠ s.kcnt → i = .keyclr ∨ ∃ b, i = .keypush b) ∧
    (t.seed ≠ s.seed → i = .seed ∨ i = .encode ∨ i = .decode) ∧
    (t.x ≠ s.x → i = .seed ∨ i = .next ∨ i = .ksbyte ∨ i = .ksxor ∨ i = .encode ∨ i = .decode) ∧
    t.len = s.len ∧
    (t.result ≠ s.result → i = .next ∨ i = .ksbyte ∨ i = .bsadv ∨ i = .tsadv ∨ (∃ b, i = .rot13 b) ∨
      (∃ b k, i = .brotl b k) ∨ (∃ b k, i = .brotr b k) ∨ (∃ b k p, i = .xbenc b k p) ∨
      (∃ b k p, i = .xbdec b k p)) ∧
    (t.bstep ≠ s.bstep → i = .stepclr ∨ i = .bsadv ∨ i = .blkfwd ∨ i = .blkinv ∨ i = .encode ∨ i = .decode) ∧
    (t.tstep ≠ s.tstep → i = .stepclr ∨ i = .tsadv ∨ i = .xfenc ∨ i = .xfdec ∨ i = .encode ∨ i = .decode) ∧
    (∀ j, t.byte j ≠ s.byte j → j < s.len.toNat ∧ usesLength i) ∧
    t.draw = s.draw ∧ t.pending = s.pending ∧ t.responses = s.responses

/-- R29: no command that updates one counter by its recurrence reads or writes the other; only STEPCLR, ENCODE and DECODE
write both. -/
def Obligations.CountersAreIndependent : Prop :=
  (∀ (i : Instr) (s : State) (v : BitVec 3), i = .bsadv ∨ i = .blkfwd ∨ i = .blkinv →
    exec i { s with tstep := v } = andThen (exec i s) fun t => .next { t with tstep := v }) ∧
  (∀ (i : Instr) (s : State) (v : BitVec 3), i = .tsadv ∨ i = .xfenc ∨ i = .xfdec →
    exec i { s with bstep := v } = andThen (exec i s) fun t => .next { t with bstep := v }) ∧
  (∀ (i : Instr) (s t : State), exec i s = .next t → t.bstep ≠ s.bstep → t.tstep ≠ s.tstep →
    i = .stepclr ∨ i = .encode ∨ i = .decode)

/-- SEED changes only by a derivation or at reset: no host transaction but the CMD write of SEED, ENCODE or DECODE (R24).
The pending list is the model's own choice (log 1). -/
def Obligations.SeedChangesOnlyByDerivation : Prop :=
  ∀ (s t : State) (e : HostEvent) (es : List HostEvent), s.pending = e :: es → step s = .next t →
    t.seed ≠ s.seed →
    e = .reset ∨ ∃ w i, e = .write 0x000 4 w ∧ decode w = .ok i ∧ usesKey i ∧ s.kcnt = 4#4

/-! ## The bus -/

/-- What a host read of each register returns, what a host write of LEN and X does, and that a host write of STATUS, KEY,
KCNT, SEED, RESULT or STEP is a bus error (R34). A response is the model's own record (log 8), a bus error a fault that
carries its transaction (log 7). -/
def Obligations.RegisterReadsAndWrites : Prop :=
  ∀ s : State,
    perform (.read 0x004 4) s = .next { s with responses := s.responses ++ [.data 4 (s.errcode.setWidth 32)] } ∧
    (∃ v : Word, perform (.read 0x008 4) s = .next { s with responses := s.responses ++ [.data 4 v] } ∧
      v.toNat = s.key.k0.toNat + s.key.k1.toNat * 2 ^ 8 + s.key.k2.toNat * 2 ^ 16 + s.key.k3.toNat * 2 ^ 24) ∧
    perform (.read 0x00C 4) s = .next { s with responses := s.responses ++ [.data 4 (s.kcnt.setWidth 32)] } ∧
    perform (.read 0x010 4) s = .next { s with responses := s.responses ++ [.data 4 (s.len.setWidth 32)] } ∧
    perform (.read 0x014 4) s = .next { s with responses := s.responses ++ [.data 4 s.seed] } ∧
    perform (.read 0x018 4) s = .next { s with responses := s.responses ++ [.data 4 s.x] } ∧
    perform (.read 0x01C 4) s = .next { s with responses := s.responses ++ [.data 4 s.result] } ∧
    (∃ v : Word, perform (.read 0x020 4) s = .next { s with responses := s.responses ++ [.data 4 v] } ∧
      v.toNat = s.tstep.toNat * 2 ^ 8 + s.bstep.toNat) ∧
    (∀ v : Word,
      (∃ n : BitVec 16, n.toNat = v.toNat % 2 ^ 16 ∧
        perform (.write 0x010 4 v) s = .next { s with len := n, responses := s.responses ++ [.ok] }) ∧
      perform (.write 0x018 4 v) s = .next { s with x := v, responses := s.responses ++ [.ok] } ∧
      ∀ off ∈ [0x004, 0x008, 0x00C, 0x014, 0x01C, 0x020],
        perform (.write off 4 v) s = .fault (.busError (.write off 4 v)))

/-- A window access of 1, 2 or 4 naturally aligned bytes inside BUF reads and writes those bytes, little-endian, whatever LEN
is; any other is a bus error (R53). The answer of a read and the OK of a write are the model's own record of responses
(log 8), a bus error is a fault that carries its transaction (log 7). -/
def Obligations.WindowReadsAndWrites : Prop :=
  ∀ (off n : Nat) (v : Word) (s : State), 0x100 ≤ off →
    ((n = 1 ∨ n = 2 ∨ n = 4) ∧ (off - 0x100) % n = 0 ∧ off - 0x100 + n ≤ Config.nMax →
      (∃ d : Word, perform (.read off n) s = .next { s with responses := s.responses ++ [.data n d] } ∧
        d.toNat < 2 ^ (8 * n) ∧ ∀ k, k < n → d.extractLsb' (8 * k) 8 = s.byte (off - 0x100 + k)) ∧
      (∃ t, perform (.write off n v) s = .next t ∧
        t = { s with buf := t.buf, responses := s.responses ++ [.ok] } ∧
        (∀ k, k < n → t.byte (off - 0x100 + k) = v.extractLsb' (8 * k) 8) ∧
        (∀ j, j < off - 0x100 ∨ off - 0x100 + n ≤ j → t.byte j = s.byte j))) ∧
    (¬((n = 1 ∨ n = 2 ∨ n = 4) ∧ (off - 0x100) % n = 0 ∧ off - 0x100 + n ≤ Config.nMax) →
      perform (.read off n) s = .fault (.busError (.read off n)) ∧
      perform (.write off n v) s = .fault (.busError (.write off n v)))

/-- A transaction is a bus error exactly when the map of R33 and R51..R53 does not permit it, in every state: no state
makes a permitted access fail, and none makes a forbidden one succeed. That a bus error is a fault that carries its
transaction is log 7. -/
def Obligations.BusErrorsAreExactlyTheIllegalAccesses : Prop :=
  ∀ (e : HostEvent) (s : State),
    (busLegal e = true ↔ ∃ t, perform e s = .next t) ∧
    (busLegal e = false ↔ perform e s = .fault (.busError e))

/-- R56: a 32-bit read returns the bytes of the four 8-bit reads, least significant first, and a 16-bit write changes
exactly two bytes of BUF. -/
def Obligations.MixedWidthAccessSeesOneArray : Prop :=
  ∀ (j : Nat) (s : State),
    (j % 4 = 0 → j + 4 ≤ Config.nMax → ∃ b0 b1 b2 b3 w : Word,
      memRead (0x100 + j) 1 s = some b0 ∧ memRead (0x100 + j + 1) 1 s = some b1 ∧
      memRead (0x100 + j + 2) 1 s = some b2 ∧ memRead (0x100 + j + 3) 1 s = some b3 ∧
      memRead (0x100 + j) 4 s = some w ∧
      w.toNat = b0.toNat + b1.toNat * 2 ^ 8 + b2.toNat * 2 ^ 16 + b3.toNat * 2 ^ 24) ∧
    (∀ v : Word, j % 2 = 0 → j + 2 ≤ Config.nMax → ∃ t, perform (.write (0x100 + j) 2 v) s = .next t ∧
      t.byte j = v.extractLsb' 0 8 ∧ t.byte (j + 1) = v.extractLsb' 8 8 ∧
      ∀ i, i ≠ j → i ≠ j + 1 → t.byte i = s.byte i)

/-- Reads have no side effects, and writes other than to CMD are idempotent (R58). The record of responses (log 8) and the
canonical form of the buffer memory (log 4) are the model's own choice. -/
def Obligations.ReadsHaveNoSideEffects : Prop :=
  (∀ (off n : Nat) (s t : State), perform (.read off n) s = .next t →
    ∃ v, t = { s with responses := s.responses ++ [.data n v] } ∧
      perform (.read off n) t = .next { t with responses := t.responses ++ [.data n v] }) ∧
  (∀ (off n : Nat) (v : Word) (s t : State), off ≠ 0x000 → s.buf.wf = true →
    perform (.write off n v) s = .next t →
    perform (.write off n v) t = .next { t with responses := t.responses ++ [.ok] })

/-! ## Host programs -/

/-- A program that meets a bus error is faulted there with CORE's state as it was, and what follows is not performed
(R54, R260). The fault is log 7, the record of responses the model's own choice (log 8). -/
def Obligations.ABusErrorChangesNoState : Prop :=
  ∀ (e : HostEvent) (es : List HostEvent) (s : State), busLegal e = false →
    runProgram (e :: es) s = s.observe (s.responses ++ [.busError]) true

/-- Stepping CORE through a legal program, oldest transaction first, performs exactly that program: it never stops, it
leaves nothing pending, and its observation is the program's (R62, R258, R260). The pending list and the loading of a
program into it are the model's own choice (log 1, log 2), as is the record of responses (log 8). -/
def Obligations.SteppingRunsTheProgram : Prop :=
  ∀ (p : List HostEvent) (s : State), programLegal p = true →
    ∃ t, Host.Core.run core p.length (s.load p) = .next t ∧ t.pending = [] ∧
      runProgram p s = t.observe t.responses false
end

