-- ==== Sys2Proof/Laws/Arith.lean ====
section
/-! SUPPORT. The arithmetic operators in the library's terms: the product and the rotations of R11 and R12, and the value of
a little-endian byte sequence (20_memory.md R53, R55). -/

namespace Sys2Proof.Machine

theorem mul32_eq_mul (a b : Word) : mul32 a b = a * b := by
  apply BitVec.eq_of_toNat_eq
  simp [mul32, BitVec.toNat_mul, Nat.mul_comm]

theorem rotl32_eq_rotateLeft (v : Word) (k : Nat) (h : k < 32) : rotl32 v k = v.rotateLeft k := by
  simp [rotl32, BitVec.rotateLeft, BitVec.rotateLeftAux, Nat.mod_eq_of_lt h]

theorem rotr32_eq_rotateRight (v : Word) (k : Nat) (h : k < 32) : rotr32 v k = v.rotateRight k := by
  simp [rotr32, BitVec.rotateRight, BitVec.rotateRightAux, Nat.mod_eq_of_lt h]

theorem rotl8_mod (v : Byte) (k : Nat) : rotl8 v (k % 8) = rotl8 v k := by simp [rotl8]

theorem rotr8_mod (v : Byte) (k : Nat) : rotr8 v (k % 8) = rotr8 v k := by simp [rotr8]

theorem rotl8_eq_rotateLeft (v : Byte) (k : Nat) : rotl8 v k = v.rotateLeft k := by
  unfold rotl8
  split
  · rename_i h
    simp only [BitVec.rotateLeft, BitVec.rotateLeftAux, h]
    apply BitVec.eq_of_toNat_eq
    simp [Nat.shiftRight_eq_div_pow, Nat.div_eq_of_lt v.isLt]
  · rfl

theorem rotr8_eq_rotateRight (v : Byte) (k : Nat) : rotr8 v k = v.rotateRight k := by
  unfold rotr8
  split
  · rename_i h
    simp only [BitVec.rotateRight, BitVec.rotateRightAux, h]
    apply BitVec.eq_of_toNat_eq
    simp
  · rfl

theorem leValue_lt (bs : List Byte) (h : bs.length ≤ 4) : (leValue bs).toNat < 2 ^ (8 * bs.length) := by
  induction bs with
  | nil => simp [leValue]
  | cons b bs ih =>
    simp only [List.length_cons] at h
    have hb := b.isLt
    have := ih (by omega)
    have hp : 2 ^ (8 * (bs.length + 1)) = 2 ^ (8 * bs.length) * 2 ^ 8 := by ring
    have hq : 2 ^ 8 ≤ 2 ^ (8 * (bs.length + 1)) := Nat.pow_le_pow_right (by omega) (by omega)
    simp only [leValue, zext32, BitVec.toNat_or, BitVec.toNat_setWidth, BitVec.toNat_shiftLeft,
      Nat.shiftLeft_eq, List.length_cons]
    refine Nat.or_lt_two_pow (lt_of_le_of_lt (Nat.mod_le _ _) (by omega))
      (lt_of_le_of_lt (Nat.mod_le _ _) ?_)
    rw [hp]
    exact Nat.mul_lt_mul_of_pos_right this (by decide)

/-- The value of a byte sequence, byte by byte. -/
theorem leValue_cons_toNat (b : Byte) (bs : List Byte) (h : bs.length ≤ 3) :
    (leValue (b :: bs)).toNat = b.toNat + (leValue bs).toNat * 2 ^ 8 := by
  have hb := b.isLt
  have hl := leValue_lt bs (by omega)
  have hp : 2 ^ (8 * bs.length) ≤ 2 ^ 24 := Nat.pow_le_pow_right (by omega) (by omega)
  have e1 : b.toNat % 2 ^ 32 = b.toNat := Nat.mod_eq_of_lt (by omega)
  have e2 : (leValue bs).toNat * 2 ^ 8 % 2 ^ 32 = (leValue bs).toNat * 2 ^ 8 := Nat.mod_eq_of_lt (by omega)
  simp only [leValue, zext32, BitVec.toNat_or, BitVec.toNat_setWidth, BitVec.toNat_shiftLeft,
    Nat.shiftLeft_eq, e1, e2]
  rw [Nat.or_comm, Nat.mul_comm, ← Nat.two_pow_add_eq_or_of_lt hb, Nat.add_comm]

/-- `LE32` as a number (00_scope.md R13). -/
theorem le32_toNat (b0 b1 b2 b3 : Byte) : (le32 b0 b1 b2 b3).toNat =
    b0.toNat + b1.toNat * 2 ^ 8 + b2.toNat * 2 ^ 16 + b3.toNat * 2 ^ 24 := by
  unfold le32
  rw [leValue_cons_toNat _ _ (by simp), leValue_cons_toNat _ _ (by simp), leValue_cons_toNat _ _ (by simp),
    leValue_cons_toNat _ _ (by simp)]
  simp only [leValue, BitVec.toNat_ofNat]
  omega

/-- Byte k of the value of a byte sequence is its k-th byte (20_memory.md R53). -/
theorem leValue_extract (bs : List Byte) (h : bs.length ≤ 4) (k : Nat) (hk : k < bs.length) :
    (leValue bs).extractLsb' (8 * k) 8 = bs[k] := by
  induction bs generalizing k with
  | nil => simp at hk
  | cons b bs ih =>
    simp only [List.length_cons] at h hk
    have hb := b.isLt
    apply BitVec.eq_of_toNat_eq
    rw [BitVec.extractLsb'_toNat, leValue_cons_toNat b bs (by omega), Nat.shiftRight_eq_div_pow]
    cases k with
    | zero =>
      simp only [Nat.mul_zero, Nat.pow_zero, Nat.div_one, List.getElem_cons_zero]
      omega
    | succ k =>
      rw [List.getElem_cons_succ, ← ih (by omega) k (by omega), BitVec.extractLsb'_toNat,
        Nat.shiftRight_eq_div_pow, show 8 * (k + 1) = 8 + 8 * k by ring, Nat.pow_add, ← Nat.div_div_eq_div_mul]
      congr 2
      omega

@[simp] theorem leBytes_length (n : Nat) (v : Word) : (leBytes n v).length = n := by simp [leBytes]

/-- Byte k of a bus value (20_memory.md R55). -/
theorem leBytes_getElem? (n k : Nat) (v : Word) (h : k < n) :
    (leBytes n v)[k]? = some (v.extractLsb' (8 * k) 8) := by
  simp [leBytes, h]

end Sys2Proof.Machine
end

