-- ==== Sys2Proof/Laws/State.lean ====
section
/-! SUPPORT. What each update of State does to each field: one lemma per field per update, true by rfl, so that no proof
unfolds a record update. -/

namespace Sys2Proof.Machine

/-! ### setKey -/

@[simp] theorem State.setKey_key (s : State) (v : Key) : (s.setKey v).key = v := rfl
@[simp] theorem State.setKey_kcnt (s : State) (v : Key) : (s.setKey v).kcnt = s.kcnt := rfl
@[simp] theorem State.setKey_seed (s : State) (v : Key) : (s.setKey v).seed = s.seed := rfl
@[simp] theorem State.setKey_x (s : State) (v : Key) : (s.setKey v).x = s.x := rfl
@[simp] theorem State.setKey_len (s : State) (v : Key) : (s.setKey v).len = s.len := rfl
@[simp] theorem State.setKey_result (s : State) (v : Key) : (s.setKey v).result = s.result := rfl
@[simp] theorem State.setKey_bstep (s : State) (v : Key) : (s.setKey v).bstep = s.bstep := rfl
@[simp] theorem State.setKey_tstep (s : State) (v : Key) : (s.setKey v).tstep = s.tstep := rfl
@[simp] theorem State.setKey_errcode (s : State) (v : Key) : (s.setKey v).errcode = s.errcode := rfl
@[simp] theorem State.setKey_buf (s : State) (v : Key) : (s.setKey v).buf = s.buf := rfl
@[simp] theorem State.setKey_draw (s : State) (v : Key) : (s.setKey v).draw = s.draw := rfl
@[simp] theorem State.setKey_pending (s : State) (v : Key) : (s.setKey v).pending = s.pending := rfl
@[simp] theorem State.setKey_responses (s : State) (v : Key) : (s.setKey v).responses = s.responses := rfl
@[simp] theorem State.setKey_byte (s : State) (v : Key) (j : Nat) : (s.setKey v).byte j = s.byte j := rfl
@[simp] theorem State.setKey_buffer (s : State) (v : Key) : (s.setKey v).buffer = s.buffer := rfl

/-! ### setKcnt -/

@[simp] theorem State.setKcnt_key (s : State) (v : BitVec 4) : (s.setKcnt v).key = s.key := rfl
@[simp] theorem State.setKcnt_kcnt (s : State) (v : BitVec 4) : (s.setKcnt v).kcnt = v := rfl
@[simp] theorem State.setKcnt_seed (s : State) (v : BitVec 4) : (s.setKcnt v).seed = s.seed := rfl
@[simp] theorem State.setKcnt_x (s : State) (v : BitVec 4) : (s.setKcnt v).x = s.x := rfl
@[simp] theorem State.setKcnt_len (s : State) (v : BitVec 4) : (s.setKcnt v).len = s.len := rfl
@[simp] theorem State.setKcnt_result (s : State) (v : BitVec 4) : (s.setKcnt v).result = s.result := rfl
@[simp] theorem State.setKcnt_bstep (s : State) (v : BitVec 4) : (s.setKcnt v).bstep = s.bstep := rfl
@[simp] theorem State.setKcnt_tstep (s : State) (v : BitVec 4) : (s.setKcnt v).tstep = s.tstep := rfl
@[simp] theorem State.setKcnt_errcode (s : State) (v : BitVec 4) : (s.setKcnt v).errcode = s.errcode := rfl
@[simp] theorem State.setKcnt_buf (s : State) (v : BitVec 4) : (s.setKcnt v).buf = s.buf := rfl
@[simp] theorem State.setKcnt_draw (s : State) (v : BitVec 4) : (s.setKcnt v).draw = s.draw := rfl
@[simp] theorem State.setKcnt_pending (s : State) (v : BitVec 4) : (s.setKcnt v).pending = s.pending := rfl
@[simp] theorem State.setKcnt_responses (s : State) (v : BitVec 4) : (s.setKcnt v).responses = s.responses := rfl
@[simp] theorem State.setKcnt_byte (s : State) (v : BitVec 4) (j : Nat) : (s.setKcnt v).byte j = s.byte j := rfl
@[simp] theorem State.setKcnt_buffer (s : State) (v : BitVec 4) : (s.setKcnt v).buffer = s.buffer := rfl

/-! ### setSeed -/

@[simp] theorem State.setSeed_key (s : State) (v : Word) : (s.setSeed v).key = s.key := rfl
@[simp] theorem State.setSeed_kcnt (s : State) (v : Word) : (s.setSeed v).kcnt = s.kcnt := rfl
@[simp] theorem State.setSeed_seed (s : State) (v : Word) : (s.setSeed v).seed = v := rfl
@[simp] theorem State.setSeed_x (s : State) (v : Word) : (s.setSeed v).x = s.x := rfl
@[simp] theorem State.setSeed_len (s : State) (v : Word) : (s.setSeed v).len = s.len := rfl
@[simp] theorem State.setSeed_result (s : State) (v : Word) : (s.setSeed v).result = s.result := rfl
@[simp] theorem State.setSeed_bstep (s : State) (v : Word) : (s.setSeed v).bstep = s.bstep := rfl
@[simp] theorem State.setSeed_tstep (s : State) (v : Word) : (s.setSeed v).tstep = s.tstep := rfl
@[simp] theorem State.setSeed_errcode (s : State) (v : Word) : (s.setSeed v).errcode = s.errcode := rfl
@[simp] theorem State.setSeed_buf (s : State) (v : Word) : (s.setSeed v).buf = s.buf := rfl
@[simp] theorem State.setSeed_draw (s : State) (v : Word) : (s.setSeed v).draw = s.draw := rfl
@[simp] theorem State.setSeed_pending (s : State) (v : Word) : (s.setSeed v).pending = s.pending := rfl
@[simp] theorem State.setSeed_responses (s : State) (v : Word) : (s.setSeed v).responses = s.responses := rfl
@[simp] theorem State.setSeed_byte (s : State) (v : Word) (j : Nat) : (s.setSeed v).byte j = s.byte j := rfl
@[simp] theorem State.setSeed_buffer (s : State) (v : Word) : (s.setSeed v).buffer = s.buffer := rfl

/-! ### setX -/

@[simp] theorem State.setX_key (s : State) (v : Word) : (s.setX v).key = s.key := rfl
@[simp] theorem State.setX_kcnt (s : State) (v : Word) : (s.setX v).kcnt = s.kcnt := rfl
@[simp] theorem State.setX_seed (s : State) (v : Word) : (s.setX v).seed = s.seed := rfl
@[simp] theorem State.setX_x (s : State) (v : Word) : (s.setX v).x = v := rfl
@[simp] theorem State.setX_len (s : State) (v : Word) : (s.setX v).len = s.len := rfl
@[simp] theorem State.setX_result (s : State) (v : Word) : (s.setX v).result = s.result := rfl
@[simp] theorem State.setX_bstep (s : State) (v : Word) : (s.setX v).bstep = s.bstep := rfl
@[simp] theorem State.setX_tstep (s : State) (v : Word) : (s.setX v).tstep = s.tstep := rfl
@[simp] theorem State.setX_errcode (s : State) (v : Word) : (s.setX v).errcode = s.errcode := rfl
@[simp] theorem State.setX_buf (s : State) (v : Word) : (s.setX v).buf = s.buf := rfl
@[simp] theorem State.setX_draw (s : State) (v : Word) : (s.setX v).draw = s.draw := rfl
@[simp] theorem State.setX_pending (s : State) (v : Word) : (s.setX v).pending = s.pending := rfl
@[simp] theorem State.setX_responses (s : State) (v : Word) : (s.setX v).responses = s.responses := rfl
@[simp] theorem State.setX_byte (s : State) (v : Word) (j : Nat) : (s.setX v).byte j = s.byte j := rfl
@[simp] theorem State.setX_buffer (s : State) (v : Word) : (s.setX v).buffer = s.buffer := rfl

/-! ### setLen -/

@[simp] theorem State.setLen_key (s : State) (v : BitVec 16) : (s.setLen v).key = s.key := rfl
@[simp] theorem State.setLen_kcnt (s : State) (v : BitVec 16) : (s.setLen v).kcnt = s.kcnt := rfl
@[simp] theorem State.setLen_seed (s : State) (v : BitVec 16) : (s.setLen v).seed = s.seed := rfl
@[simp] theorem State.setLen_x (s : State) (v : BitVec 16) : (s.setLen v).x = s.x := rfl
@[simp] theorem State.setLen_len (s : State) (v : BitVec 16) : (s.setLen v).len = v := rfl
@[simp] theorem State.setLen_result (s : State) (v : BitVec 16) : (s.setLen v).result = s.result := rfl
@[simp] theorem State.setLen_bstep (s : State) (v : BitVec 16) : (s.setLen v).bstep = s.bstep := rfl
@[simp] theorem State.setLen_tstep (s : State) (v : BitVec 16) : (s.setLen v).tstep = s.tstep := rfl
@[simp] theorem State.setLen_errcode (s : State) (v : BitVec 16) : (s.setLen v).errcode = s.errcode := rfl
@[simp] theorem State.setLen_buf (s : State) (v : BitVec 16) : (s.setLen v).buf = s.buf := rfl
@[simp] theorem State.setLen_draw (s : State) (v : BitVec 16) : (s.setLen v).draw = s.draw := rfl
@[simp] theorem State.setLen_pending (s : State) (v : BitVec 16) : (s.setLen v).pending = s.pending := rfl
@[simp] theorem State.setLen_responses (s : State) (v : BitVec 16) : (s.setLen v).responses = s.responses := rfl
@[simp] theorem State.setLen_byte (s : State) (v : BitVec 16) (j : Nat) : (s.setLen v).byte j = s.byte j := rfl

/-! ### setResult -/

@[simp] theorem State.setResult_key (s : State) (v : Word) : (s.setResult v).key = s.key := rfl
@[simp] theorem State.setResult_kcnt (s : State) (v : Word) : (s.setResult v).kcnt = s.kcnt := rfl
@[simp] theorem State.setResult_seed (s : State) (v : Word) : (s.setResult v).seed = s.seed := rfl
@[simp] theorem State.setResult_x (s : State) (v : Word) : (s.setResult v).x = s.x := rfl
@[simp] theorem State.setResult_len (s : State) (v : Word) : (s.setResult v).len = s.len := rfl
@[simp] theorem State.setResult_result (s : State) (v : Word) : (s.setResult v).result = v := rfl
@[simp] theorem State.setResult_bstep (s : State) (v : Word) : (s.setResult v).bstep = s.bstep := rfl
@[simp] theorem State.setResult_tstep (s : State) (v : Word) : (s.setResult v).tstep = s.tstep := rfl
@[simp] theorem State.setResult_errcode (s : State) (v : Word) : (s.setResult v).errcode = s.errcode := rfl
@[simp] theorem State.setResult_buf (s : State) (v : Word) : (s.setResult v).buf = s.buf := rfl
@[simp] theorem State.setResult_draw (s : State) (v : Word) : (s.setResult v).draw = s.draw := rfl
@[simp] theorem State.setResult_pending (s : State) (v : Word) : (s.setResult v).pending = s.pending := rfl
@[simp] theorem State.setResult_responses (s : State) (v : Word) : (s.setResult v).responses = s.responses := rfl
@[simp] theorem State.setResult_byte (s : State) (v : Word) (j : Nat) : (s.setResult v).byte j = s.byte j := rfl
@[simp] theorem State.setResult_buffer (s : State) (v : Word) : (s.setResult v).buffer = s.buffer := rfl

/-! ### setBstep -/

@[simp] theorem State.setBstep_key (s : State) (v : BitVec 3) : (s.setBstep v).key = s.key := rfl
@[simp] theorem State.setBstep_kcnt (s : State) (v : BitVec 3) : (s.setBstep v).kcnt = s.kcnt := rfl
@[simp] theorem State.setBstep_seed (s : State) (v : BitVec 3) : (s.setBstep v).seed = s.seed := rfl
@[simp] theorem State.setBstep_x (s : State) (v : BitVec 3) : (s.setBstep v).x = s.x := rfl
@[simp] theorem State.setBstep_len (s : State) (v : BitVec 3) : (s.setBstep v).len = s.len := rfl
@[simp] theorem State.setBstep_result (s : State) (v : BitVec 3) : (s.setBstep v).result = s.result := rfl
@[simp] theorem State.setBstep_bstep (s : State) (v : BitVec 3) : (s.setBstep v).bstep = v := rfl
@[simp] theorem State.setBstep_tstep (s : State) (v : BitVec 3) : (s.setBstep v).tstep = s.tstep := rfl
@[simp] theorem State.setBstep_errcode (s : State) (v : BitVec 3) : (s.setBstep v).errcode = s.errcode := rfl
@[simp] theorem State.setBstep_buf (s : State) (v : BitVec 3) : (s.setBstep v).buf = s.buf := rfl
@[simp] theorem State.setBstep_draw (s : State) (v : BitVec 3) : (s.setBstep v).draw = s.draw := rfl
@[simp] theorem State.setBstep_pending (s : State) (v : BitVec 3) : (s.setBstep v).pending = s.pending := rfl
@[simp] theorem State.setBstep_responses (s : State) (v : BitVec 3) : (s.setBstep v).responses = s.responses := rfl
@[simp] theorem State.setBstep_byte (s : State) (v : BitVec 3) (j : Nat) : (s.setBstep v).byte j = s.byte j := rfl
@[simp] theorem State.setBstep_buffer (s : State) (v : BitVec 3) : (s.setBstep v).buffer = s.buffer := rfl

/-! ### setTstep -/

@[simp] theorem State.setTstep_key (s : State) (v : BitVec 3) : (s.setTstep v).key = s.key := rfl
@[simp] theorem State.setTstep_kcnt (s : State) (v : BitVec 3) : (s.setTstep v).kcnt = s.kcnt := rfl
@[simp] theorem State.setTstep_seed (s : State) (v : BitVec 3) : (s.setTstep v).seed = s.seed := rfl
@[simp] theorem State.setTstep_x (s : State) (v : BitVec 3) : (s.setTstep v).x = s.x := rfl
@[simp] theorem State.setTstep_len (s : State) (v : BitVec 3) : (s.setTstep v).len = s.len := rfl
@[simp] theorem State.setTstep_result (s : State) (v : BitVec 3) : (s.setTstep v).result = s.result := rfl
@[simp] theorem State.setTstep_bstep (s : State) (v : BitVec 3) : (s.setTstep v).bstep = s.bstep := rfl
@[simp] theorem State.setTstep_tstep (s : State) (v : BitVec 3) : (s.setTstep v).tstep = v := rfl
@[simp] theorem State.setTstep_errcode (s : State) (v : BitVec 3) : (s.setTstep v).errcode = s.errcode := rfl
@[simp] theorem State.setTstep_buf (s : State) (v : BitVec 3) : (s.setTstep v).buf = s.buf := rfl
@[simp] theorem State.setTstep_draw (s : State) (v : BitVec 3) : (s.setTstep v).draw = s.draw := rfl
@[simp] theorem State.setTstep_pending (s : State) (v : BitVec 3) : (s.setTstep v).pending = s.pending := rfl
@[simp] theorem State.setTstep_responses (s : State) (v : BitVec 3) : (s.setTstep v).responses = s.responses := rfl
@[simp] theorem State.setTstep_byte (s : State) (v : BitVec 3) (j : Nat) : (s.setTstep v).byte j = s.byte j := rfl
@[simp] theorem State.setTstep_buffer (s : State) (v : BitVec 3) : (s.setTstep v).buffer = s.buffer := rfl

/-! ### setErrcode -/

@[simp] theorem State.setErrcode_key (s : State) (v : BitVec 3) : (s.setErrcode v).key = s.key := rfl
@[simp] theorem State.setErrcode_kcnt (s : State) (v : BitVec 3) : (s.setErrcode v).kcnt = s.kcnt := rfl
@[simp] theorem State.setErrcode_seed (s : State) (v : BitVec 3) : (s.setErrcode v).seed = s.seed := rfl
@[simp] theorem State.setErrcode_x (s : State) (v : BitVec 3) : (s.setErrcode v).x = s.x := rfl
@[simp] theorem State.setErrcode_len (s : State) (v : BitVec 3) : (s.setErrcode v).len = s.len := rfl
@[simp] theorem State.setErrcode_result (s : State) (v : BitVec 3) : (s.setErrcode v).result = s.result := rfl
@[simp] theorem State.setErrcode_bstep (s : State) (v : BitVec 3) : (s.setErrcode v).bstep = s.bstep := rfl
@[simp] theorem State.setErrcode_tstep (s : State) (v : BitVec 3) : (s.setErrcode v).tstep = s.tstep := rfl
@[simp] theorem State.setErrcode_errcode (s : State) (v : BitVec 3) : (s.setErrcode v).errcode = v := rfl
@[simp] theorem State.setErrcode_buf (s : State) (v : BitVec 3) : (s.setErrcode v).buf = s.buf := rfl
@[simp] theorem State.setErrcode_draw (s : State) (v : BitVec 3) : (s.setErrcode v).draw = s.draw := rfl
@[simp] theorem State.setErrcode_pending (s : State) (v : BitVec 3) : (s.setErrcode v).pending = s.pending := rfl
@[simp] theorem State.setErrcode_responses (s : State) (v : BitVec 3) : (s.setErrcode v).responses = s.responses := rfl
@[simp] theorem State.setErrcode_byte (s : State) (v : BitVec 3) (j : Nat) : (s.setErrcode v).byte j = s.byte j := rfl
@[simp] theorem State.setErrcode_buffer (s : State) (v : BitVec 3) : (s.setErrcode v).buffer = s.buffer := rfl

/-! ### setBuf -/

@[simp] theorem State.setBuf_key (s : State) (v : Memory) : (s.setBuf v).key = s.key := rfl
@[simp] theorem State.setBuf_kcnt (s : State) (v : Memory) : (s.setBuf v).kcnt = s.kcnt := rfl
@[simp] theorem State.setBuf_seed (s : State) (v : Memory) : (s.setBuf v).seed = s.seed := rfl
@[simp] theorem State.setBuf_x (s : State) (v : Memory) : (s.setBuf v).x = s.x := rfl
@[simp] theorem State.setBuf_len (s : State) (v : Memory) : (s.setBuf v).len = s.len := rfl
@[simp] theorem State.setBuf_result (s : State) (v : Memory) : (s.setBuf v).result = s.result := rfl
@[simp] theorem State.setBuf_bstep (s : State) (v : Memory) : (s.setBuf v).bstep = s.bstep := rfl
@[simp] theorem State.setBuf_tstep (s : State) (v : Memory) : (s.setBuf v).tstep = s.tstep := rfl
@[simp] theorem State.setBuf_errcode (s : State) (v : Memory) : (s.setBuf v).errcode = s.errcode := rfl
@[simp] theorem State.setBuf_buf (s : State) (v : Memory) : (s.setBuf v).buf = v := rfl
@[simp] theorem State.setBuf_draw (s : State) (v : Memory) : (s.setBuf v).draw = s.draw := rfl
@[simp] theorem State.setBuf_pending (s : State) (v : Memory) : (s.setBuf v).pending = s.pending := rfl
@[simp] theorem State.setBuf_responses (s : State) (v : Memory) : (s.setBuf v).responses = s.responses := rfl

/-! ### setPending -/

@[simp] theorem State.setPending_key (s : State) (v : List HostEvent) : (s.setPending v).key = s.key := rfl
@[simp] theorem State.setPending_kcnt (s : State) (v : List HostEvent) : (s.setPending v).kcnt = s.kcnt := rfl
@[simp] theorem State.setPending_seed (s : State) (v : List HostEvent) : (s.setPending v).seed = s.seed := rfl
@[simp] theorem State.setPending_x (s : State) (v : List HostEvent) : (s.setPending v).x = s.x := rfl
@[simp] theorem State.setPending_len (s : State) (v : List HostEvent) : (s.setPending v).len = s.len := rfl
@[simp] theorem State.setPending_result (s : State) (v : List HostEvent) : (s.setPending v).result = s.result := rfl
@[simp] theorem State.setPending_bstep (s : State) (v : List HostEvent) : (s.setPending v).bstep = s.bstep := rfl
@[simp] theorem State.setPending_tstep (s : State) (v : List HostEvent) : (s.setPending v).tstep = s.tstep := rfl
@[simp] theorem State.setPending_errcode (s : State) (v : List HostEvent) : (s.setPending v).errcode = s.errcode := rfl
@[simp] theorem State.setPending_buf (s : State) (v : List HostEvent) : (s.setPending v).buf = s.buf := rfl
@[simp] theorem State.setPending_draw (s : State) (v : List HostEvent) : (s.setPending v).draw = s.draw := rfl
@[simp] theorem State.setPending_pending (s : State) (v : List HostEvent) : (s.setPending v).pending = v := rfl
@[simp] theorem State.setPending_responses (s : State) (v : List HostEvent) : (s.setPending v).responses = s.responses := rfl
@[simp] theorem State.setPending_byte (s : State) (v : List HostEvent) (j : Nat) : (s.setPending v).byte j = s.byte j := rfl
@[simp] theorem State.setPending_buffer (s : State) (v : List HostEvent) : (s.setPending v).buffer = s.buffer := rfl

/-! ### Two updates -/

@[simp] theorem State.setErrcode_setErrcode (s : State) (c d : BitVec 3) :
    (s.setErrcode c).setErrcode d = s.setErrcode d := rfl
@[simp] theorem State.setX_setX (s : State) (v w : Word) : (s.setX v).setX w = s.setX w := rfl
@[simp] theorem State.setPending_setPending (s : State) (es fs : List HostEvent) :
    (s.setPending es).setPending fs = s.setPending fs := rfl

/-! ### respond -/

@[simp] theorem State.respond_key (s : State) (r : Response) : (s.respond r).key = s.key := rfl
@[simp] theorem State.respond_kcnt (s : State) (r : Response) : (s.respond r).kcnt = s.kcnt := rfl
@[simp] theorem State.respond_seed (s : State) (r : Response) : (s.respond r).seed = s.seed := rfl
@[simp] theorem State.respond_x (s : State) (r : Response) : (s.respond r).x = s.x := rfl
@[simp] theorem State.respond_len (s : State) (r : Response) : (s.respond r).len = s.len := rfl
@[simp] theorem State.respond_result (s : State) (r : Response) : (s.respond r).result = s.result := rfl
@[simp] theorem State.respond_bstep (s : State) (r : Response) : (s.respond r).bstep = s.bstep := rfl
@[simp] theorem State.respond_tstep (s : State) (r : Response) : (s.respond r).tstep = s.tstep := rfl
@[simp] theorem State.respond_errcode (s : State) (r : Response) : (s.respond r).errcode = s.errcode := rfl
@[simp] theorem State.respond_buf (s : State) (r : Response) : (s.respond r).buf = s.buf := rfl
@[simp] theorem State.respond_draw (s : State) (r : Response) : (s.respond r).draw = s.draw := rfl
@[simp] theorem State.respond_pending (s : State) (r : Response) : (s.respond r).pending = s.pending := rfl
@[simp] theorem State.respond_responses (s : State) (r : Response) : (s.respond r).responses = s.responses ++ [r] := rfl
@[simp] theorem State.respond_byte (s : State) (r : Response) (j : Nat) : (s.respond r).byte j = s.byte j := rfl

/-! ### storeBytes -/

@[simp] theorem State.storeBytes_key (s : State) (j : Nat) (bs : List Byte) : (s.storeBytes j bs).key = s.key := rfl
@[simp] theorem State.storeBytes_kcnt (s : State) (j : Nat) (bs : List Byte) : (s.storeBytes j bs).kcnt = s.kcnt := rfl
@[simp] theorem State.storeBytes_seed (s : State) (j : Nat) (bs : List Byte) : (s.storeBytes j bs).seed = s.seed := rfl
@[simp] theorem State.storeBytes_x (s : State) (j : Nat) (bs : List Byte) : (s.storeBytes j bs).x = s.x := rfl
@[simp] theorem State.storeBytes_len (s : State) (j : Nat) (bs : List Byte) : (s.storeBytes j bs).len = s.len := rfl
@[simp] theorem State.storeBytes_result (s : State) (j : Nat) (bs : List Byte) : (s.storeBytes j bs).result = s.result := rfl
@[simp] theorem State.storeBytes_bstep (s : State) (j : Nat) (bs : List Byte) : (s.storeBytes j bs).bstep = s.bstep := rfl
@[simp] theorem State.storeBytes_tstep (s : State) (j : Nat) (bs : List Byte) : (s.storeBytes j bs).tstep = s.tstep := rfl
@[simp] theorem State.storeBytes_errcode (s : State) (j : Nat) (bs : List Byte) : (s.storeBytes j bs).errcode = s.errcode := rfl
@[simp] theorem State.storeBytes_buf (s : State) (j : Nat) (bs : List Byte) : (s.storeBytes j bs).buf = s.buf.storeAll j bs := rfl
@[simp] theorem State.storeBytes_draw (s : State) (j : Nat) (bs : List Byte) : (s.storeBytes j bs).draw = s.draw := rfl
@[simp] theorem State.storeBytes_pending (s : State) (j : Nat) (bs : List Byte) : (s.storeBytes j bs).pending = s.pending := rfl
@[simp] theorem State.storeBytes_responses (s : State) (j : Nat) (bs : List Byte) : (s.storeBytes j bs).responses = s.responses := rfl

/-! ### afterReset -/

@[simp] theorem State.afterReset_key (s : State) : s.afterReset.key = State.reset.key := rfl
@[simp] theorem State.afterReset_kcnt (s : State) : s.afterReset.kcnt = State.reset.kcnt := rfl
@[simp] theorem State.afterReset_seed (s : State) : s.afterReset.seed = State.reset.seed := rfl
@[simp] theorem State.afterReset_x (s : State) : s.afterReset.x = State.reset.x := rfl
@[simp] theorem State.afterReset_len (s : State) : s.afterReset.len = State.reset.len := rfl
@[simp] theorem State.afterReset_result (s : State) : s.afterReset.result = State.reset.result := rfl
@[simp] theorem State.afterReset_bstep (s : State) : s.afterReset.bstep = State.reset.bstep := rfl
@[simp] theorem State.afterReset_tstep (s : State) : s.afterReset.tstep = State.reset.tstep := rfl
@[simp] theorem State.afterReset_errcode (s : State) : s.afterReset.errcode = State.reset.errcode := rfl
@[simp] theorem State.afterReset_buf (s : State) : s.afterReset.buf = State.reset.buf := rfl
@[simp] theorem State.afterReset_draw (s : State) : s.afterReset.draw = s.draw + 1 := rfl
@[simp] theorem State.afterReset_pending (s : State) : s.afterReset.pending = s.pending := rfl
@[simp] theorem State.afterReset_responses (s : State) : s.afterReset.responses = s.responses := rfl

end Sys2Proof.Machine
end

