-- ==== Sys2Proof/Laws/Memory.lean ====
section
/-! SUPPORT. The buffer memory: what a byte reads as after a write, and the canonical form. -/

namespace Sys2Proof.Machine

/-! ### Read after write -/

theorem Memory.lookup_store_same (m : Memory) (j : Nat) (v : Byte) : (m.store j v).lookupByte j = some v := by
  induction m with
  | nil => simp [Memory.store, Memory.lookupByte]
  | cons c m ih =>
    obtain ⟨a, b⟩ := c
    unfold Memory.store
    split
    · simp [Memory.lookupByte]
    · split
      · simp [Memory.lookupByte]
      · rename_i h
        simp [Memory.lookupByte, Ne.symm h, ih]

theorem Memory.lookup_store_other (m : Memory) (j i : Nat) (v : Byte) (h : i ≠ j) :
    (m.store j v).lookupByte i = m.lookupByte i := by
  induction m with
  | nil => simp [Memory.store, Memory.lookupByte, h.symm]
  | cons c m ih =>
    obtain ⟨a, b⟩ := c
    unfold Memory.store
    split
    · simp [Memory.lookupByte, h.symm]
    · split
      · rename_i e
        subst e
        simp [Memory.lookupByte, h.symm]
      · simp only [Memory.lookupByte, ih]

/-- Reading one byte after a write of a sequence of bytes. -/
theorem Memory.lookup_storeAll (bs : List Byte) (m : Memory) (j i : Nat) :
    (m.storeAll j bs).lookupByte i = if j ≤ i ∧ i < j + bs.length then bs[i - j]? else m.lookupByte i := by
  induction bs generalizing m j with
  | nil =>
    rw [if_neg (by simp)]
    rfl
  | cons b bs ih =>
    simp only [Memory.storeAll, ih, List.length_cons]
    by_cases hi : i = j
    · subst hi
      simp [Memory.lookup_store_same]
    · rw [Memory.lookup_store_other _ _ _ _ hi]
      by_cases h : j + 1 ≤ i ∧ i < j + 1 + bs.length
      · rw [if_pos h, if_pos (by omega), show i - j = (i - (j + 1)) + 1 by omega, List.getElem?_cons_succ]
      · rw [if_neg h, if_neg (by omega)]

/-! ### The canonical form -/

theorem Memory.wfFrom_store (m : Memory) (lo j : Nat) (v : Byte) (h : Memory.wfFrom lo m = true)
    (hl : lo ≤ j) (hj : j < Config.nMax) : Memory.wfFrom lo (m.store j v) = true := by
  induction m generalizing lo with
  | nil => simp [Memory.store, Memory.wfFrom, hl, hj]
  | cons c m ih =>
    obtain ⟨a, b⟩ := c
    simp only [Memory.wfFrom, Bool.and_eq_true, decide_eq_true_eq] at h
    unfold Memory.store
    split
    · simp only [Memory.wfFrom, Bool.and_eq_true, decide_eq_true_eq]
      exact ⟨⟨hl, hj⟩, ⟨by omega, h.1.2⟩, h.2⟩
    · split
      · rename_i e
        subst e
        simp only [Memory.wfFrom, Bool.and_eq_true, decide_eq_true_eq]
        exact ⟨⟨hl, hj⟩, h.2⟩
      · simp only [Memory.wfFrom, Bool.and_eq_true, decide_eq_true_eq]
        exact ⟨h.1, ih (a + 1) h.2 (by omega)⟩

/-- One written byte keeps the canonical form. -/
theorem Memory.wf_store (m : Memory) (j : Nat) (v : Byte) (h : m.wf = true) (hj : j < Config.nMax) :
    (m.store j v).wf = true := Memory.wfFrom_store m 0 j v h (Nat.zero_le j) hj

/-- A written sequence of bytes keeps the canonical form. -/
theorem Memory.wf_storeAll (bs : List Byte) (m : Memory) (j : Nat) (h : m.wf = true)
    (hj : j + bs.length ≤ Config.nMax) : (m.storeAll j bs).wf = true := by
  induction bs generalizing m j with
  | nil => exact h
  | cons b bs ih =>
    simp only [List.length_cons] at hj
    exact ih _ _ (Memory.wf_store m j b h (by omega)) (by omega)

/-- Reset memory is in canonical form. -/
theorem Memory.wf_reset : State.reset.buf.wf = true := rfl

theorem Memory.lookup_none_of_lt (m : Memory) (lo i : Nat) (h : Memory.wfFrom lo m = true) (hi : i < lo) :
    m.lookupByte i = none := by
  induction m generalizing lo with
  | nil => rfl
  | cons c m ih =>
    obtain ⟨a, b⟩ := c
    simp only [Memory.wfFrom, Bool.and_eq_true, decide_eq_true_eq] at h
    rw [Memory.lookupByte, if_neg (by omega)]
    exact ih (a + 1) h.2 (by omega)

/-- Two memories in canonical form that hold the same written bytes are equal data. -/
theorem Memory.eq_of_lookup (m n : Memory) (lo : Nat) (hm : Memory.wfFrom lo m = true)
    (hn : Memory.wfFrom lo n = true) (h : ∀ i, m.lookupByte i = n.lookupByte i) : m = n := by
  induction m generalizing n lo with
  | nil =>
    cases n with
    | nil => rfl
    | cons c n =>
      have := h c.1
      simp [Memory.lookupByte] at this
  | cons c m ih =>
    obtain ⟨a, b⟩ := c
    cases n with
    | nil =>
      have := h a
      simp [Memory.lookupByte] at this
    | cons d n =>
      obtain ⟨a', b'⟩ := d
      simp only [Memory.wfFrom, Bool.and_eq_true, decide_eq_true_eq] at hm hn
      have hlow : ∀ i < a + 1, Memory.lookupByte m i = none := fun i hi => Memory.lookup_none_of_lt m (a + 1) i hm.2 hi
      have hlow' : ∀ i < a' + 1, Memory.lookupByte n i = none := fun i hi => Memory.lookup_none_of_lt n (a' + 1) i hn.2 hi
      have haa : a = a' := by
        rcases Nat.lt_trichotomy a a' with hlt | he | hgt
        · have := h a
          simp [Memory.lookupByte, Nat.ne_of_gt hlt, hlow' a (by omega)] at this
        · exact he
        · have := h a'
          simp [Memory.lookupByte, Nat.ne_of_gt hgt, hlow a' (by omega)] at this
      subst haa
      have hb : b = b' := by simpa [Memory.lookupByte] using h a
      subst hb
      congr 1
      refine ih n (a + 1) hm.2 hn.2 fun i => ?_
      by_cases hi : i = a
      · subst hi
        rw [hlow i (by omega), hlow' i (by omega)]
      · simpa [Memory.lookupByte, Ne.symm hi] using h i

/-! ### Buffer bytes of a state -/

theorem State.bytes_length (s : State) (j n : Nat) : (s.bytes j n).length = n := by simp [State.bytes]

@[simp] theorem State.buffer_length (s : State) : s.buffer.length = s.len.toNat := by
  simp [State.buffer, State.bytes_length]

theorem State.bytes_getElem? (s : State) (j n i : Nat) (h : i < n) :
    (s.bytes j n)[i]? = some (s.byte (j + i)) := by
  simp [State.bytes, h]

/-- Byte `i` of the buffer of a command (20_memory.md R59). -/
theorem State.buffer_getElem? (s : State) (i : Nat) (h : i < s.len.toNat) :
    s.buffer[i]? = some (s.byte i) := by
  simpa [State.buffer] using s.bytes_getElem? 0 s.len.toNat i h

/-- Reading a byte that the write stored. -/
theorem State.byte_storeBytes_inside (s : State) (j i : Nat) (bs : List Byte) (b : Byte)
    (hj : j ≤ i) (h : bs[i - j]? = some b) : (s.storeBytes j bs).byte i = b := by
  have hl : i - j < bs.length := (List.getElem?_eq_some_iff.mp h).1
  simp only [State.byte, State.storeBytes_buf, Memory.lookup_storeAll]
  rw [if_pos ⟨hj, by omega⟩, h]

/-- Reading a byte outside the stored ones. -/
theorem State.byte_storeBytes_outside (s : State) (j i : Nat) (bs : List Byte)
    (h : ¬(j ≤ i ∧ i < j + bs.length)) : (s.storeBytes j bs).byte i = s.byte i := by
  simp only [State.byte, State.storeBytes_buf, Memory.lookup_storeAll, if_neg h, State.storeBytes_draw]

/-- The buffer after all of it has been stored is what was stored. -/
theorem State.buffer_storeBytes (s : State) (bs : List Byte) (h : bs.length = s.len.toNat) :
    (s.storeBytes 0 bs).buffer = bs := by
  apply List.ext_getElem?
  intro i
  by_cases hi : i < s.len.toNat
  · rw [State.buffer_getElem? (s.storeBytes 0 bs) i hi]
    rw [State.byte_storeBytes_inside s 0 i bs bs[i] (Nat.zero_le i) (by simp)]
    simp [h, hi]
  · rw [List.getElem?_eq_none (by simp; omega), List.getElem?_eq_none (by omega)]

/-- A write of all of the buffer hides an earlier one. -/
theorem Memory.storeAll_storeAll (m : Memory) (j : Nat) (bs cs : List Byte) (h : bs.length = cs.length)
    (hm : m.wf = true) (hj : j + bs.length ≤ Config.nMax) :
    (m.storeAll j bs).storeAll j cs = m.storeAll j cs := by
  have h1 := Memory.wf_storeAll bs m j hm hj
  refine Memory.eq_of_lookup _ _ 0 (Memory.wf_storeAll cs _ j h1 (by omega)) (Memory.wf_storeAll cs m j hm (by omega))
    fun i => ?_
  simp only [Memory.lookup_storeAll, h]
  split <;> rfl

end Sys2Proof.Machine
end

