-- ==== Sys2Proof/Laws/Stages.lean ====
section
/-! SUPPORT. What each buffer stage can do: which registers it writes, that it keeps the buffer's length, every byte at
or above LEN, and the canonical form of the memory. -/

namespace Sys2Proof.Machine

/-! ### The loops keep the length -/

@[simp] theorem ksXorBytes_length (x : Word) (bs : List Byte) : (ksXorBytes x bs).1.length = bs.length := by
  induction bs generalizing x with
  | nil => rfl
  | cons b bs ih => simp [ksXorBytes, ih]

@[simp] theorem xfBytes_length (f : Byte → Nat → Bool → Byte) (v : BitVec 3) (i : Nat) (bs : List Byte) :
    (xfBytes f v i bs).1.length = bs.length := by
  induction bs generalizing v i with
  | nil => rfl
  | cons b bs ih => simp [xfBytes, ih]

@[simp] theorem rotFwd_length (blk : List Byte) (a : Nat) : (rotFwd blk a).length = blk.length := by
  simp [rotFwd]; omega

@[simp] theorem rotInv_length (blk : List Byte) (a : Nat) : (rotInv blk a).length = blk.length := by
  simp [rotInv]

theorem rotBlocks_length (rot : List Byte → Nat → List Byte) (hrot : ∀ blk a, (rot blk a).length = blk.length)
    (m : Nat) (v : BitVec 3) (bs : List Byte) (h : bs.length ≤ 8 * m) :
    (rotBlocks rot m v bs).1.length = bs.length := by
  induction m generalizing v bs with
  | zero => simp [rotBlocks]; omega
  | succ m ih =>
    simp only [rotBlocks, List.length_append, hrot]
    rw [ih _ _ (by simp; omega)]
    simp
    omega

theorem rotBlocks_buffer_length (rot : List Byte → Nat → List Byte)
    (hrot : ∀ blk a, (rot blk a).length = blk.length) (s : State) :
    (rotBlocks rot (blockCount s.len.toNat) 0#3 s.buffer).1.length = s.len.toNat := by
  rw [rotBlocks_length rot hrot _ _ _ (by simp [blockCount]; omega)]
  simp

/-! ### Registers after a stage -/

section KeystreamStage
variable (s : State)
@[simp] theorem ksXorStage_key : (ksXorStage s).key = s.key := rfl
@[simp] theorem ksXorStage_kcnt : (ksXorStage s).kcnt = s.kcnt := rfl
@[simp] theorem ksXorStage_seed : (ksXorStage s).seed = s.seed := rfl
@[simp] theorem ksXorStage_x : (ksXorStage s).x = (ksXorBytes s.seed s.buffer).2 := rfl
@[simp] theorem ksXorStage_len : (ksXorStage s).len = s.len := rfl
@[simp] theorem ksXorStage_result : (ksXorStage s).result = s.result := rfl
@[simp] theorem ksXorStage_bstep : (ksXorStage s).bstep = s.bstep := rfl
@[simp] theorem ksXorStage_tstep : (ksXorStage s).tstep = s.tstep := rfl
@[simp] theorem ksXorStage_errcode : (ksXorStage s).errcode = s.errcode := rfl
@[simp] theorem ksXorStage_draw : (ksXorStage s).draw = s.draw := rfl
@[simp] theorem ksXorStage_pending : (ksXorStage s).pending = s.pending := rfl
@[simp] theorem ksXorStage_responses : (ksXorStage s).responses = s.responses := rfl
@[simp] theorem ksXorStage_buf : (ksXorStage s).buf = s.buf.storeAll 0 (ksXorBytes s.seed s.buffer).1 := rfl
end KeystreamStage

section BlockStage
variable (rot : List Byte → Nat → List Byte) (s : State)
@[simp] theorem blockStage_key : (blockStage rot s).key = s.key := rfl
@[simp] theorem blockStage_kcnt : (blockStage rot s).kcnt = s.kcnt := rfl
@[simp] theorem blockStage_seed : (blockStage rot s).seed = s.seed := rfl
@[simp] theorem blockStage_x : (blockStage rot s).x = s.x := rfl
@[simp] theorem blockStage_len : (blockStage rot s).len = s.len := rfl
@[simp] theorem blockStage_result : (blockStage rot s).result = s.result := rfl
@[simp] theorem blockStage_bstep :
    (blockStage rot s).bstep = (rotBlocks rot (blockCount s.len.toNat) 0#3 s.buffer).2 := rfl
@[simp] theorem blockStage_tstep : (blockStage rot s).tstep = s.tstep := rfl
@[simp] theorem blockStage_errcode : (blockStage rot s).errcode = s.errcode := rfl
@[simp] theorem blockStage_draw : (blockStage rot s).draw = s.draw := rfl
@[simp] theorem blockStage_pending : (blockStage rot s).pending = s.pending := rfl
@[simp] theorem blockStage_responses : (blockStage rot s).responses = s.responses := rfl
@[simp] theorem blockStage_buf : (blockStage rot s).buf =
    s.buf.storeAll 0 (rotBlocks rot (blockCount s.len.toNat) 0#3 s.buffer).1 := rfl
end BlockStage

section TransformStage
variable (f : Byte → Nat → Bool → Byte) (s : State)
@[simp] theorem xfStage_key : (xfStage f s).key = s.key := rfl
@[simp] theorem xfStage_kcnt : (xfStage f s).kcnt = s.kcnt := rfl
@[simp] theorem xfStage_seed : (xfStage f s).seed = s.seed := rfl
@[simp] theorem xfStage_x : (xfStage f s).x = s.x := rfl
@[simp] theorem xfStage_len : (xfStage f s).len = s.len := rfl
@[simp] theorem xfStage_result : (xfStage f s).result = s.result := rfl
@[simp] theorem xfStage_bstep : (xfStage f s).bstep = s.bstep := rfl
@[simp] theorem xfStage_tstep : (xfStage f s).tstep = (xfBytes f 0#3 0 s.buffer).2 := rfl
@[simp] theorem xfStage_errcode : (xfStage f s).errcode = s.errcode := rfl
@[simp] theorem xfStage_draw : (xfStage f s).draw = s.draw := rfl
@[simp] theorem xfStage_pending : (xfStage f s).pending = s.pending := rfl
@[simp] theorem xfStage_responses : (xfStage f s).responses = s.responses := rfl
@[simp] theorem xfStage_buf : (xfStage f s).buf = s.buf.storeAll 0 (xfBytes f 0#3 0 s.buffer).1 := rfl
end TransformStage

section LoadSeed
variable (s : State)
@[simp] theorem loadSeed_key : (loadSeed s).key = s.key := rfl
@[simp] theorem loadSeed_kcnt : (loadSeed s).kcnt = s.kcnt := rfl
@[simp] theorem loadSeed_seed : (loadSeed s).seed = s.key.le32 := rfl
@[simp] theorem loadSeed_x : (loadSeed s).x = s.key.le32 := rfl
@[simp] theorem loadSeed_len : (loadSeed s).len = s.len := rfl
@[simp] theorem loadSeed_result : (loadSeed s).result = s.result := rfl
@[simp] theorem loadSeed_bstep : (loadSeed s).bstep = s.bstep := rfl
@[simp] theorem loadSeed_tstep : (loadSeed s).tstep = s.tstep := rfl
@[simp] theorem loadSeed_errcode : (loadSeed s).errcode = s.errcode := rfl
@[simp] theorem loadSeed_buf : (loadSeed s).buf = s.buf := rfl
@[simp] theorem loadSeed_draw : (loadSeed s).draw = s.draw := rfl
@[simp] theorem loadSeed_pending : (loadSeed s).pending = s.pending := rfl
@[simp] theorem loadSeed_responses : (loadSeed s).responses = s.responses := rfl
@[simp] theorem loadSeed_byte (j : Nat) : (loadSeed s).byte j = s.byte j := rfl
@[simp] theorem loadSeed_buffer : (loadSeed s).buffer = s.buffer := rfl
end LoadSeed

/-! ### A stage does not look at ERRCODE nor at what is pending -/

@[simp] theorem loadSeed_setErrcode (s : State) (c : BitVec 3) :
    loadSeed (s.setErrcode c) = (loadSeed s).setErrcode c := rfl
@[simp] theorem ksXorStage_setErrcode (s : State) (c : BitVec 3) :
    ksXorStage (s.setErrcode c) = (ksXorStage s).setErrcode c := rfl
@[simp] theorem blockStage_setErrcode (rot : List Byte → Nat → List Byte) (s : State) (c : BitVec 3) :
    blockStage rot (s.setErrcode c) = (blockStage rot s).setErrcode c := rfl
@[simp] theorem xfStage_setErrcode (f : Byte → Nat → Bool → Byte) (s : State) (c : BitVec 3) :
    xfStage f (s.setErrcode c) = (xfStage f s).setErrcode c := rfl
@[simp] theorem loadSeed_setPending (s : State) (es : List HostEvent) :
    loadSeed (s.setPending es) = (loadSeed s).setPending es := rfl
@[simp] theorem ksXorStage_setPending (s : State) (es : List HostEvent) :
    ksXorStage (s.setPending es) = (ksXorStage s).setPending es := rfl
@[simp] theorem blockStage_setPending (rot : List Byte → Nat → List Byte) (s : State) (es : List HostEvent) :
    blockStage rot (s.setPending es) = (blockStage rot s).setPending es := rfl
@[simp] theorem xfStage_setPending (f : Byte → Nat → Bool → Byte) (s : State) (es : List HostEvent) :
    xfStage f (s.setPending es) = (xfStage f s).setPending es := rfl

/-! ### The buffer after a stage -/

theorem ksXorStage_buffer (s : State) : (ksXorStage s).buffer = (ksXorBytes s.seed s.buffer).1 :=
  State.buffer_storeBytes (s.setX _) _ (by simp)

theorem xfStage_buffer (f : Byte → Nat → Bool → Byte) (s : State) :
    (xfStage f s).buffer = (xfBytes f 0#3 0 s.buffer).1 :=
  State.buffer_storeBytes (s.setTstep _) _ (by simp)

theorem blockStage_buffer (rot : List Byte → Nat → List Byte)
    (hrot : ∀ blk a, (rot blk a).length = blk.length) (s : State) :
    (blockStage rot s).buffer = (rotBlocks rot (blockCount s.len.toNat) 0#3 s.buffer).1 :=
  State.buffer_storeBytes (s.setBstep _) _ (by simpa using rotBlocks_buffer_length rot hrot s)

/-! ### The bytes at and above LEN -/

theorem ksXorStage_byte_above (s : State) (j : Nat) (h : s.len.toNat ≤ j) :
    (ksXorStage s).byte j = s.byte j :=
  State.byte_storeBytes_outside (s.setX _) 0 j _ (by simp; omega)

theorem xfStage_byte_above (f : Byte → Nat → Bool → Byte) (s : State) (j : Nat) (h : s.len.toNat ≤ j) :
    (xfStage f s).byte j = s.byte j :=
  State.byte_storeBytes_outside (s.setTstep _) 0 j _ (by simp; omega)

theorem blockStage_byte_above (rot : List Byte → Nat → List Byte)
    (hrot : ∀ blk a, (rot blk a).length = blk.length) (s : State) (j : Nat) (h : s.len.toNat ≤ j) :
    (blockStage rot s).byte j = s.byte j :=
  State.byte_storeBytes_outside (s.setBstep _) 0 j _ (by rw [rotBlocks_buffer_length rot hrot s]; omega)

/-! ### The canonical form -/

theorem ksXorStage_wf (s : State) (h : s.buf.wf = true) (hl : s.len.toNat ≤ Config.nMax) :
    (ksXorStage s).buf.wf = true := by
  rw [ksXorStage_buf]
  exact Memory.wf_storeAll _ _ 0 h (by simpa using hl)

theorem xfStage_wf (f : Byte → Nat → Bool → Byte) (s : State) (h : s.buf.wf = true)
    (hl : s.len.toNat ≤ Config.nMax) : (xfStage f s).buf.wf = true := by
  rw [xfStage_buf]
  exact Memory.wf_storeAll _ _ 0 h (by simpa using hl)

theorem blockStage_wf (rot : List Byte → Nat → List Byte) (hrot : ∀ blk a, (rot blk a).length = blk.length)
    (s : State) (h : s.buf.wf = true) (hl : s.len.toNat ≤ Config.nMax) : (blockStage rot s).buf.wf = true := by
  rw [blockStage_buf]
  exact Memory.wf_storeAll _ _ 0 h (by rw [rotBlocks_buffer_length rot hrot s]; omega)

end Sys2Proof.Machine
end

