-- ==== Sys2Proof/Laws/Exec.lean ====
section
/-! SUPPORT. What the ends of a command and the two checks can do, and what no command touches: the inversion lemmas
that proofs about `exec` cite. -/

namespace Sys2Proof.Machine

theorem complete_eq_next {s t : State} (h : complete s = .next t) : t = s.setErrcode errOk := by
  simpa [complete, eq_comm] using h

theorem raiseError_eq_next {code : BitVec 3} {s t : State} (h : raiseError code s = .next t) :
    t = s.setErrcode code := by
  simpa [raiseError, eq_comm] using h

theorem completeWith_eq_next {v : Word} {s t : State} (h : completeWith v s = .next t) :
    t = (s.setResult v).setErrcode errOk := complete_eq_next h

/-- What the key check can do. -/
theorem requireKey_cases {s t : State} {body : Host.Outcome State Fault Refusal}
    (h : requireKey s body = .next t) :
    (s.kcnt = 4#4 ∧ body = .next t) ∨ (s.kcnt ≠ 4#4 ∧ t = s.setErrcode errInvalidKeyLength) := by
  unfold requireKey at h
  split at h
  · exact .inl ⟨‹_›, h⟩
  · exact .inr ⟨‹_›, raiseError_eq_next h⟩

/-- What the length check can do. -/
theorem requireLen_cases {s t : State} {body : Host.Outcome State Fault Refusal}
    (h : requireLen s body = .next t) :
    (s.len.toNat ≤ Config.nMax ∧ body = .next t) ∨
      (Config.nMax < s.len.toNat ∧ t = s.setErrcode errBadLength) := by
  unfold requireLen at h
  split at h
  · exact .inl ⟨‹_›, h⟩
  · exact .inr ⟨by omega, raiseError_eq_next h⟩

/-! ### exec, arm by arm -/

theorem exec_nop (s : State) : exec .nop s = execNop s := rfl
theorem exec_keyclr (s : State) : exec .keyclr s = execKeyclr s := rfl
theorem exec_keypush (imm8 : Byte) (s : State) : exec (.keypush imm8) s = execKeypush imm8 s := rfl
theorem exec_seed (s : State) : exec .seed s = execSeed s := rfl
theorem exec_stepclr (s : State) : exec .stepclr s = execStepclr s := rfl
theorem exec_next (s : State) : exec .next s = execNext s := rfl
theorem exec_ksbyte (s : State) : exec .ksbyte s = execKsbyte s := rfl
theorem exec_ksxor (s : State) : exec .ksxor s = execKsxor s := rfl
theorem exec_bsadv (s : State) : exec .bsadv s = execBsadv s := rfl
theorem exec_blkfwd (s : State) : exec .blkfwd s = execBlkfwd s := rfl
theorem exec_blkinv (s : State) : exec .blkinv s = execBlkinv s := rfl
theorem exec_tsadv (s : State) : exec .tsadv s = execTsadv s := rfl
theorem exec_rot13 (imm8 : Byte) (s : State) : exec (.rot13 imm8) s = execRot13 imm8 s := rfl
theorem exec_brotl (imm8 : Byte) (k : BitVec 3) (s : State) : exec (.brotl imm8 k) s = execBrotl imm8 k s := rfl
theorem exec_brotr (imm8 : Byte) (k : BitVec 3) (s : State) : exec (.brotr imm8 k) s = execBrotr imm8 k s := rfl
theorem exec_xbenc (imm8 : Byte) (k : BitVec 3) (p : Bool) (s : State) : exec (.xbenc imm8 k p) s = execXbenc imm8 k p s := rfl
theorem exec_xbdec (imm8 : Byte) (k : BitVec 3) (p : Bool) (s : State) : exec (.xbdec imm8 k p) s = execXbdec imm8 k p s := rfl
theorem exec_xfenc (s : State) : exec .xfenc s = execXfenc s := rfl
theorem exec_xfdec (s : State) : exec .xfdec s = execXfdec s := rfl
theorem exec_encode (s : State) : exec .encode s = execEncode s := rfl
theorem exec_decode (s : State) : exec .decode s = execDecode s := rfl

/-! ### The checks, when it is known which way they go -/

theorem requireKey_of_eq {s : State} (body : Host.Outcome State Fault Refusal) (h : s.kcnt = 4#4) :
    requireKey s body = body := if_pos h

theorem requireKey_of_ne {s : State} (body : Host.Outcome State Fault Refusal) (h : s.kcnt ≠ 4#4) :
    requireKey s body = .next (s.setErrcode errInvalidKeyLength) := if_neg h

theorem requireLen_of_le {s : State} (body : Host.Outcome State Fault Refusal)
    (h : s.len.toNat ≤ Config.nMax) : requireLen s body = body := if_pos h

theorem requireLen_of_lt {s : State} (body : Host.Outcome State Fault Refusal)
    (h : Config.nMax < s.len.toNat) : requireLen s body = .next (s.setErrcode errBadLength) :=
  if_neg (by omega)

/-! ### What each kind of command can do -/

/-- What KEYPUSH can do: store the byte and count it, or only count it. -/
theorem execKeypush_cases {imm8 : Byte} {s t : State} (h : execKeypush imm8 s = .next t) :
    (s.kcnt.toNat < 4 ∧
      t = ((s.setKey (s.key.set s.kcnt imm8)).setKcnt (kcntSucc s.kcnt)).setErrcode errOk) ∨
    (4 ≤ s.kcnt.toNat ∧ t = (s.setKcnt (kcntSucc s.kcnt)).setErrcode errOk) := by
  have h := complete_eq_next h
  split at h
  · exact .inl ⟨‹_›, h⟩
  · exact .inr ⟨by omega, h⟩

/-- What SEED can do. -/
theorem execSeed_cases {s t : State} (h : execSeed s = .next t) :
    (s.kcnt = 4#4 ∧ t = (loadSeed s).setErrcode errOk) ∨
      (s.kcnt ≠ 4#4 ∧ t = s.setErrcode errInvalidKeyLength) := by
  rcases requireKey_cases h with ⟨hk, h⟩ | h
  · exact .inl ⟨hk, complete_eq_next h⟩
  · exact .inr h

/-- What a stage command of the buffer can do. -/
theorem stage_cases {stage : State → State} {s t : State} (h : requireLen s (complete (stage s)) = .next t) :
    (s.len.toNat ≤ Config.nMax ∧ t = (stage s).setErrcode errOk) ∨
      (Config.nMax < s.len.toNat ∧ t = s.setErrcode errBadLength) := by
  rcases requireLen_cases h with ⟨hl, h⟩ | h
  · exact .inl ⟨hl, complete_eq_next h⟩
  · exact .inr h

/-- What a pipeline command can do. -/
theorem pipeline_cases {stages : State → State} {s t : State}
    (h : requireKey s (requireLen s (complete (stages s))) = .next t) :
    (s.kcnt = 4#4 ∧ s.len.toNat ≤ Config.nMax ∧ t = (stages s).setErrcode errOk) ∨
      (s.kcnt ≠ 4#4 ∧ t = s.setErrcode errInvalidKeyLength) ∨
      (s.kcnt = 4#4 ∧ Config.nMax < s.len.toNat ∧ t = s.setErrcode errBadLength) := by
  rcases requireKey_cases h with ⟨hk, h⟩ | h
  · rcases stage_cases h with ⟨hl, h⟩ | ⟨hl, h⟩
    · exact .inl ⟨hk, hl, h⟩
    · exact .inr (.inr ⟨hk, hl, h⟩)
  · exact .inr (.inl h)

/-- No command writes LEN, nor the host's side of the port (10_state.md R35). -/
theorem exec_fixed {i : Instr} {s t : State} (h : exec i s = .next t) :
    t.len = s.len ∧ t.draw = s.draw ∧ t.pending = s.pending ∧ t.responses = s.responses := by
  cases i with
  | nop => rw [complete_eq_next (s := s) h]; simp
  | keyclr => rw [complete_eq_next (s := (s.setKey ⟨0#8, 0#8, 0#8, 0#8⟩).setKcnt 0#4) h]; simp
  | keypush imm8 => rcases execKeypush_cases h with ⟨-, rfl⟩ | ⟨-, rfl⟩ <;> simp
  | seed => rcases execSeed_cases h with ⟨-, rfl⟩ | ⟨-, rfl⟩ <;> simp
  | stepclr => rw [complete_eq_next (s := (s.setBstep 0#3).setTstep 0#3) h]; simp
  | next => rw [completeWith_eq_next (s := s.setX (genNext s.x)) h]; simp
  | ksbyte => rw [completeWith_eq_next (s := s.setX (genNext s.x)) h]; simp
  | ksxor => rcases stage_cases (stage := ksXorStage) h with ⟨-, rfl⟩ | ⟨-, rfl⟩ <;> simp
  | bsadv => rw [completeWith_eq_next (s := s.setBstep (blockAdv s.bstep)) h]; simp
  | blkfwd => rcases stage_cases (stage := blockStage rotFwd) h with ⟨-, rfl⟩ | ⟨-, rfl⟩ <;> simp
  | blkinv => rcases stage_cases (stage := blockStage rotInv) h with ⟨-, rfl⟩ | ⟨-, rfl⟩ <;> simp
  | tsadv => rw [completeWith_eq_next (s := s.setTstep (byteAdv s.tstep)) h]; simp
  | rot13 imm8 => rw [completeWith_eq_next (v := zext32 (rot13 imm8)) h]; simp
  | brotl imm8 k => rw [completeWith_eq_next (v := zext32 (rotl8 imm8 k.toNat)) h]; simp
  | brotr imm8 k => rw [completeWith_eq_next (v := zext32 (rotr8 imm8 k.toNat)) h]; simp
  | xbenc imm8 k p => rw [completeWith_eq_next (v := zext32 (xenc imm8 k.toNat p)) h]; simp
  | xbdec imm8 k p => rw [completeWith_eq_next (v := zext32 (xdec imm8 k.toNat p)) h]; simp
  | xfenc => rcases stage_cases (stage := xfStage xenc) h with ⟨-, rfl⟩ | ⟨-, rfl⟩ <;> simp
  | xfdec => rcases stage_cases (stage := xfStage xdec) h with ⟨-, rfl⟩ | ⟨-, rfl⟩ <;> simp
  | encode =>
    rcases pipeline_cases (stages := fun s => ksXorStage (blockStage rotFwd (xfStage xenc (loadSeed s)))) h
      with ⟨-, -, rfl⟩ | ⟨-, rfl⟩ | ⟨-, -, rfl⟩ <;> simp
  | decode =>
    rcases pipeline_cases (stages := fun s => xfStage xdec (blockStage rotInv (ksXorStage (loadSeed s)))) h
      with ⟨-, -, rfl⟩ | ⟨-, rfl⟩ | ⟨-, -, rfl⟩ <;> simp

end Sys2Proof.Machine
end

