-- ==== Sys2Proof/Laws/Bus.lean ====
section
/-! SUPPORT. What performing one event can do: the inversion lemma of `perform`, and the small lemmas of the step. -/

namespace Sys2Proof.Machine

@[simp] theorem step_idle (s : State) (h : s.pending = []) : step s = .next s := by
  simp [step, performNext, h]

theorem step_pending (s : State) (e : HostEvent) (es : List HostEvent) (h : s.pending = e :: es) :
    step s = perform e (s.setPending es) := by
  simp [step, performNext, h]

theorem respondOk_eq_next {o : Host.Outcome State Fault Refusal} {t : State} (h : respondOk o = .next t) :
    ∃ u, o = .next u ∧ t = u.respond .ok := by
  cases o with
  | next u => exact ⟨u, rfl, by simpa [respondOk, eq_comm] using h⟩
  | fault r => simp [respondOk] at h
  | refused r => simp [respondOk] at h

/-- What the execution of a command word can do (30_encoding.md R87). -/
theorem runCommand_cases {w : Word} {s t : State} (h : runCommand w s = .next t) :
    (∃ i, decode w = .ok i ∧ exec i s = .next t) ∨
      (∃ r, decode w = .error r ∧ t = s.setErrcode errIllegalCmd) := by
  rcases hd : decode w with r | i
  · exact .inr ⟨r, rfl, raiseError_eq_next (by rwa [runCommand, hd] at h)⟩
  · exact .inl ⟨i, rfl, by rwa [runCommand, hd] at h⟩

/-- A window transaction addresses a byte sequence inside BUF (20_memory.md R53). -/
theorem addressedBuf_eq_some {off n j : Nat} (h : addressedBuf off n = some j) :
    j = off - 0x100 ∧ (n = 1 ∨ n = 2 ∨ n = 4) ∧ j % n = 0 ∧ j + n ≤ Config.nMax := by
  simp only [addressedBuf] at h
  split at h
  · rename_i hc
    exact ⟨(Option.some.inj h).symm, Option.some.inj h ▸ hc⟩
  · exact absurd h (by simp)

/-- Which offset and size reach a register (10_state.md R33, 20_memory.md R52). -/
theorem addressedReg_eq_some {off n : Nat} {r : Reg} (h : addressedReg off n = some r) :
    n = 4 ∧ off % 4 = 0 ∧ regAt off = some r := by
  unfold addressedReg at h
  split at h
  · rename_i hc
    exact ⟨hc.1, hc.2, h⟩
  · cases h

theorem memRead_register {off : Nat} (h : off < 0x100) (n : Nat) (s : State) :
    memRead off n s = (addressedReg off n).bind s.regValue := by
  rw [memRead, if_pos h]

theorem memRead_window {off n : Nat} (h : 0x100 ≤ off) (s : State)
    (hc : (n = 1 ∨ n = 2 ∨ n = 4) ∧ (off - 0x100) % n = 0 ∧ off - 0x100 + n ≤ Config.nMax) :
    memRead off n s = some (leValue (s.bytes (off - 0x100) n)) := by
  simp only [memRead, if_neg (Nat.not_lt.mpr h), addressedBuf, if_pos hc, Option.map_some]

theorem memRead_outside {off n : Nat} (h : 0x100 ≤ off) (s : State)
    (hc : ¬((n = 1 ∨ n = 2 ∨ n = 4) ∧ (off - 0x100) % n = 0 ∧ off - 0x100 + n ≤ Config.nMax)) :
    memRead off n s = none := by
  simp only [memRead, if_neg (Nat.not_lt.mpr h), addressedBuf, if_neg hc, Option.map_none]

theorem memWrite_register {off : Nat} (h : off < 0x100) (n : Nat) (v : Word) (s : State) :
    memWrite off n v s = (addressedReg off n).bind fun r => regWrite r v s := by
  rw [memWrite, if_pos h]

theorem memWrite_window {off n : Nat} (h : 0x100 ≤ off) (v : Word) (s : State)
    (hc : (n = 1 ∨ n = 2 ∨ n = 4) ∧ (off - 0x100) % n = 0 ∧ off - 0x100 + n ≤ Config.nMax) :
    memWrite off n v s = some (.next (s.storeBytes (off - 0x100) (leBytes n v))) := by
  simp only [memWrite, if_neg (Nat.not_lt.mpr h), addressedBuf, if_pos hc, Option.map_some]

theorem memWrite_outside {off n : Nat} (h : 0x100 ≤ off) (v : Word) (s : State)
    (hc : ¬((n = 1 ∨ n = 2 ∨ n = 4) ∧ (off - 0x100) % n = 0 ∧ off - 0x100 + n ≤ Config.nMax)) :
    memWrite off n v s = none := by
  simp only [memWrite, if_neg (Nat.not_lt.mpr h), addressedBuf, if_neg hc, Option.map_none]

/-- What a write that completes can do (10_state.md R34, 20_memory.md R52, R53). -/
theorem memWrite_cases {off n : Nat} {v : Word} {s t : State} (h : memWrite off n v s = some (.next t)) :
    (off = 0x000 ∧ n = 4 ∧ runCommand v s = .next t) ∨
    (off = 0x010 ∧ n = 4 ∧ t = s.setLen (v.extractLsb' 0 16)) ∨
    (off = 0x018 ∧ n = 4 ∧ t = s.setX v) ∨
    (∃ j, addressedBuf off n = some j ∧ 0x100 ≤ off ∧ t = s.storeBytes j (leBytes n v)) := by
  unfold memWrite at h
  split at h
  · obtain ⟨r, hr, hw⟩ := Option.bind_eq_some_iff.mp h
    unfold addressedReg at hr
    split at hr
    · rename_i hc
      unfold regAt at hr
      split at hr <;> simp at hr <;> subst hr <;> simp [regWrite] at hw
      · exact .inl ⟨rfl, hc.1, hw⟩
      · exact .inr (.inl ⟨rfl, hc.1, hw.symm⟩)
      · exact .inr (.inr (.inl ⟨rfl, hc.1, hw.symm⟩))
    · cases hr
  · obtain ⟨j, hj, hw⟩ := Option.map_eq_some_iff.mp h
    refine .inr (.inr (.inr ⟨j, hj, by omega, ?_⟩))
    simpa [eq_comm] using hw

/-- What performing one event can do. -/
theorem perform_cases {e : HostEvent} {s t : State} (h : perform e s = .next t) :
    (∃ off n v, e = .read off n ∧ memRead off n s = some v ∧ t = s.respond (.data n v)) ∨
    (∃ off n v u, e = .write off n v ∧ memWrite off n v s = some (.next u) ∧ t = u.respond .ok) ∨
    (e = .reset ∧ t = s.afterReset) := by
  cases e with
  | read off n =>
    simp only [perform] at h
    split at h
    · exact .inl ⟨off, n, _, rfl, ‹_›, by simpa [eq_comm] using h⟩
    · cases h
  | write off n v =>
    simp only [perform] at h
    split at h
    · obtain ⟨u, rfl, rfl⟩ := respondOk_eq_next h
      exact .inr (.inl ⟨off, n, v, u, rfl, ‹_›, rfl⟩)
    · cases h
  | reset => exact .inr (.inr ⟨rfl, by simpa [perform, eq_comm] using h⟩)

end Sys2Proof.Machine
end

