-- ==== Sys2Proof/Laws/Encoding.lean ====
section
/-! SUPPORT. The fields of a command word (30_encoding.md R81, R83), and the word put together again from its fields. -/

namespace Sys2Proof

theorem opcField_toNat (w : Word) : (opcField w).toNat = w.toNat / 2 ^ 24 := by
  have := w.isLt
  rw [opcField, BitVec.extractLsb'_toNat, Nat.shiftRight_eq_div_pow]
  omega

theorem imm8Field_toNat (w : Word) : (imm8Field w).toNat = w.toNat % 2 ^ 8 := by
  rw [imm8Field, BitVec.extractLsb'_toNat, Nat.shiftRight_eq_div_pow]
  omega

theorem kField_toNat (w : Word) : (kField w).toNat = w.toNat / 2 ^ 8 % 2 ^ 3 := by
  rw [kField, BitVec.extractLsb'_toNat, Nat.shiftRight_eq_div_pow]

theorem pField_toNat (w : Word) : (pField w).toNat = w.toNat / 2 ^ 11 % 2 := by
  rw [pField, BitVec.getLsbD, Nat.testBit, Nat.shiftRight_eq_div_pow, Nat.and_comm, Nat.and_one_is_mod]
  rcases Nat.mod_two_eq_zero_or_one (w.toNat / 2 ^ 11) with h | h <;> rw [h] <;> rfl

/-- A command word as a number. -/
theorem commandWord_toNat (opc imm8 : Byte) (p : Bool) (k : BitVec 3) : (commandWord opc p k imm8).toNat =
    opc.toNat * 2 ^ 24 + p.toNat * 2 ^ 11 + k.toNat * 2 ^ 8 + imm8.toNat := by
  have hb := imm8.isLt
  have hk := k.isLt
  have hp : p.toNat ≤ 1 := Bool.toNat_le p
  have or_add (a b n : Nat) (h : b < 2 ^ n) : a * 2 ^ n ||| b = a * 2 ^ n + b := by
    rw [Nat.mul_comm]
    exact (Nat.two_pow_add_eq_or_of_lt h a).symm
  unfold commandWord
  simp only [BitVec.toNat_append, Nat.shiftLeft_eq, BitVec.toNat_ofBool, BitVec.toNat_ofNat]
  rw [or_add k.toNat _ 8 hb, or_add p.toNat _ (3 + 8) (by omega), or_add _ _ (1 + (3 + 8)) (by omega),
    or_add opc.toNat _ (12 + (1 + (3 + 8))) (by omega)]
  omega

section Fields
variable (opc imm8 : Byte) (p : Bool) (k : BitVec 3)

@[simp] theorem opcField_commandWord : opcField (commandWord opc p k imm8) = opc := by
  have := imm8.isLt
  have := k.isLt
  have := Bool.toNat_le p
  apply BitVec.eq_of_toNat_eq
  rw [opcField_toNat, commandWord_toNat]
  omega

@[simp] theorem imm8Field_commandWord : imm8Field (commandWord opc p k imm8) = imm8 := by
  have := imm8.isLt
  apply BitVec.eq_of_toNat_eq
  rw [imm8Field_toNat, commandWord_toNat]
  omega

@[simp] theorem kField_commandWord : kField (commandWord opc p k imm8) = k := by
  have := imm8.isLt
  have := k.isLt
  apply BitVec.eq_of_toNat_eq
  rw [kField_toNat, commandWord_toNat]
  omega

@[simp] theorem pField_commandWord : pField (commandWord opc p k imm8) = p := by
  have := imm8.isLt
  have := k.isLt
  have hp := Bool.toNat_le p
  have h : (pField (commandWord opc p k imm8)).toNat = p.toNat := by
    rw [pField_toNat, commandWord_toNat]
    omega
  revert h
  cases p <;> cases pField (commandWord opc _ k imm8) <;> decide

/-- The reserved bits of a format in a command word: the fields above the ones the format uses. -/
theorem reservedZero_commandWord (f : Format) : reservedZero f (commandWord opc p k imm8) =
    decide ((p.toNat * 2 ^ 11 + k.toNat * 2 ^ 8 + imm8.toNat) / 2 ^ f.reservedFrom = 0) := by
  have := imm8.isLt
  have := k.isLt
  have := Bool.toNat_le p
  rw [reservedZero, commandWord_toNat]
  congr 3
  omega

end Fields

/-- A word with nothing in bits 23:12 is the command word of its fields. -/
theorem commandWord_fields (w : Word) (h : w.toNat % 2 ^ 24 / 2 ^ 12 = 0) :
    commandWord (opcField w) (pField w) (kField w) (imm8Field w) = w := by
  apply BitVec.eq_of_toNat_eq
  rw [commandWord_toNat, opcField_toNat, pField_toNat, kField_toNat, imm8Field_toNat]
  omega

/-- What `checked` can answer. -/
theorem checked_eq_ok {f : Format} {w : Word} {i j : Instr} (h : checked f w i = .ok j) :
    i = j ∧ w.toNat % 2 ^ 24 / 2 ^ f.reservedFrom = 0 := by
  unfold checked at h
  split at h
  · rename_i hr
    exact ⟨Except.ok.inj h, by simpa [reservedZero] using hr⟩
  · cases h

end Sys2Proof
end

