-- ==== Sys2Proof/Laws/PerInstr.lean ====
section
/-! SUPPORT. Statements made per instruction: one lemma for each constructor of Instr. -/

/-- Family OpcodeField: the word of an instruction carries its opcode in bits 31:24 (30_encoding.md R81, R85), so no two
commands share a word. -/
def Sys2Proof.Laws.OpcodeField.Statement (i : Sys2Proof.Instr) : Prop :=
  Sys2Proof.opcField (Sys2Proof.encode i) = Sys2Proof.opcodeOf i

theorem Sys2Proof.Laws.OpcodeField.nop : Sys2Proof.Laws.OpcodeField.Statement .nop :=
  Sys2Proof.opcField_commandWord _ _ _ _
theorem Sys2Proof.Laws.OpcodeField.keyclr : Sys2Proof.Laws.OpcodeField.Statement .keyclr :=
  Sys2Proof.opcField_commandWord _ _ _ _
theorem Sys2Proof.Laws.OpcodeField.keypush (imm8 : Sys2Proof.Byte) : Sys2Proof.Laws.OpcodeField.Statement (.keypush imm8) :=
  Sys2Proof.opcField_commandWord _ _ _ _
theorem Sys2Proof.Laws.OpcodeField.seed : Sys2Proof.Laws.OpcodeField.Statement .seed :=
  Sys2Proof.opcField_commandWord _ _ _ _
theorem Sys2Proof.Laws.OpcodeField.stepclr : Sys2Proof.Laws.OpcodeField.Statement .stepclr :=
  Sys2Proof.opcField_commandWord _ _ _ _
theorem Sys2Proof.Laws.OpcodeField.next : Sys2Proof.Laws.OpcodeField.Statement .next :=
  Sys2Proof.opcField_commandWord _ _ _ _
theorem Sys2Proof.Laws.OpcodeField.ksbyte : Sys2Proof.Laws.OpcodeField.Statement .ksbyte :=
  Sys2Proof.opcField_commandWord _ _ _ _
theorem Sys2Proof.Laws.OpcodeField.ksxor : Sys2Proof.Laws.OpcodeField.Statement .ksxor :=
  Sys2Proof.opcField_commandWord _ _ _ _
theorem Sys2Proof.Laws.OpcodeField.bsadv : Sys2Proof.Laws.OpcodeField.Statement .bsadv :=
  Sys2Proof.opcField_commandWord _ _ _ _
theorem Sys2Proof.Laws.OpcodeField.blkfwd : Sys2Proof.Laws.OpcodeField.Statement .blkfwd :=
  Sys2Proof.opcField_commandWord _ _ _ _
theorem Sys2Proof.Laws.OpcodeField.blkinv : Sys2Proof.Laws.OpcodeField.Statement .blkinv :=
  Sys2Proof.opcField_commandWord _ _ _ _
theorem Sys2Proof.Laws.OpcodeField.tsadv : Sys2Proof.Laws.OpcodeField.Statement .tsadv :=
  Sys2Proof.opcField_commandWord _ _ _ _
theorem Sys2Proof.Laws.OpcodeField.rot13 (imm8 : Sys2Proof.Byte) : Sys2Proof.Laws.OpcodeField.Statement (.rot13 imm8) :=
  Sys2Proof.opcField_commandWord _ _ _ _
theorem Sys2Proof.Laws.OpcodeField.brotl (imm8 : Sys2Proof.Byte) (k : BitVec 3) : Sys2Proof.Laws.OpcodeField.Statement (.brotl imm8 k) :=
  Sys2Proof.opcField_commandWord _ _ _ _
theorem Sys2Proof.Laws.OpcodeField.brotr (imm8 : Sys2Proof.Byte) (k : BitVec 3) : Sys2Proof.Laws.OpcodeField.Statement (.brotr imm8 k) :=
  Sys2Proof.opcField_commandWord _ _ _ _
theorem Sys2Proof.Laws.OpcodeField.xbenc (imm8 : Sys2Proof.Byte) (k : BitVec 3) (p : Bool) : Sys2Proof.Laws.OpcodeField.Statement (.xbenc imm8 k p) :=
  Sys2Proof.opcField_commandWord _ _ _ _
theorem Sys2Proof.Laws.OpcodeField.xbdec (imm8 : Sys2Proof.Byte) (k : BitVec 3) (p : Bool) : Sys2Proof.Laws.OpcodeField.Statement (.xbdec imm8 k p) :=
  Sys2Proof.opcField_commandWord _ _ _ _
theorem Sys2Proof.Laws.OpcodeField.xfenc : Sys2Proof.Laws.OpcodeField.Statement .xfenc :=
  Sys2Proof.opcField_commandWord _ _ _ _
theorem Sys2Proof.Laws.OpcodeField.xfdec : Sys2Proof.Laws.OpcodeField.Statement .xfdec :=
  Sys2Proof.opcField_commandWord _ _ _ _
theorem Sys2Proof.Laws.OpcodeField.encode : Sys2Proof.Laws.OpcodeField.Statement .encode :=
  Sys2Proof.opcField_commandWord _ _ _ _
theorem Sys2Proof.Laws.OpcodeField.decode : Sys2Proof.Laws.OpcodeField.Statement .decode :=
  Sys2Proof.opcField_commandWord _ _ _ _
end

