-- ==== Sys2Proof/Tests/Slice0.lean ====
section
/-! SUPPORT. The model's own tests. Expected values are taken from the spec: the patterns of 30_encoding.md R85 and the
vectors V1..V16 of 95_test_vectors.md, which the spec derives from its rules. At the end, for each obligation with
hypotheses, concrete values that meet them, at the boundaries of their ranges. -/

namespace Sys2Proof.Tests

open Sys2Proof.Machine Sys2Proof.Safety

/-! ### Small states -/

/-- The next state, if there is one. -/
def nextOf : Host.Outcome State Fault Refusal → Option State
  | .next s => some s
  | .fault _ => none
  | .refused _ => none

/-- The fault, if the outcome is one. -/
def faultOf : Host.Outcome State Fault Refusal → Option Fault
  | .next _ => none
  | .fault r => some r
  | .refused _ => none

/-- Reset, with LEN and KCNT. -/
def lenKcnt (len : BitVec 16) (kcnt : BitVec 4) : State := { State.reset with len := len, kcnt := kcnt }

/-- Reset, with a whole key prefix. -/
def keyed (b0 b1 b2 b3 : Byte) : State := { State.reset with key := ⟨b0, b1, b2, b3⟩, kcnt := 4#4 }

/-- A state with these buffer bytes, and LEN their number. -/
def withBuf (s : State) (bs : List Byte) : State :=
  { s with len := BitVec.ofNat 16 bs.length, buf := Memory.storeAll [] 0 bs }

/-- The bytes 0, 1, …, n - 1. -/
def counting (n : Nat) : List Byte := (List.range n).map (BitVec.ofNat 8)

/-- "Hello, World!" (V10, V11). -/
def hello : List Byte :=
  [0x48#8, 0x65#8, 0x6C#8, 0x6C#8, 0x6F#8, 0x2C#8, 0x20#8, 0x57#8, 0x6F#8, 0x72#8, 0x6C#8, 0x64#8, 0x21#8]

/-- A of V11: after XFENC. -/
def helloA : List Byte :=
  [0xAA#8, 0x4E#8, 0xF2#8, 0xE5#8, 0x26#8, 0x0B#8, 0x10#8, 0x52#8, 0x13#8, 0xB2#8, 0x5E#8, 0x17#8, 0x84#8]

/-- C of V11 for KEY = 01 02 03 04. -/
def helloC : List Byte :=
  [0x18#8, 0x2F#8, 0xF0#8, 0x09#8, 0x83#8, 0xEC#8, 0xC6#8, 0x0E#8, 0x16#8, 0xE2#8, 0xBC#8, 0x48#8, 0xC4#8]

/-- The first eight keystream bytes of seed 0x04030201 (V3, V4). -/
def keystream8 : List Byte := [0x3E#8, 0x24#8, 0xE0#8, 0x5B#8, 0x29#8, 0xA2#8, 0x34#8, 0xEB#8]

/-! ### WellFormed: each check refuses an ill-formed command (30_encoding.md R90) -/

theorem test_wf_no_operand_expected : Command.wf ⟨.NOP, [0]⟩ = false := by decide
theorem test_wf_byte_missing : Command.wf ⟨.KEYPUSH, []⟩ = false := by decide
theorem test_wf_byte_extra_operand : Command.wf ⟨.ROT13, [0x41, 0]⟩ = false := by decide
theorem test_wf_byte_out_of_range : Command.wf ⟨.KEYPUSH, [256]⟩ = false := by decide
theorem test_wf_amount_missing : Command.wf ⟨.BROTL, [0x81]⟩ = false := by decide
theorem test_wf_amount_byte_out_of_range : Command.wf ⟨.BROTR, [256, 7]⟩ = false := by decide
theorem test_wf_amount_out_of_range : Command.wf ⟨.BROTL, [0x81, 8]⟩ = false := by decide
theorem test_wf_parity_missing : Command.wf ⟨.XBENC, [0x41, 5]⟩ = false := by decide
theorem test_wf_parity_byte_out_of_range : Command.wf ⟨.XBDEC, [256, 7, 1]⟩ = false := by decide
theorem test_wf_parity_amount_out_of_range : Command.wf ⟨.XBENC, [0x41, 8, 1]⟩ = false := by decide
theorem test_wf_parity_out_of_range : Command.wf ⟨.XBENC, [0x41, 5, 2]⟩ = false := by decide
theorem test_wf_parity_extra_operand : Command.wf ⟨.XBDEC, [0x41, 5, 1, 0]⟩ = false := by decide
theorem test_wf_bounds_are_admitted :
    Command.wf ⟨.KEYPUSH, [255]⟩ = true ∧ Command.wf ⟨.BROTL, [255, 7]⟩ = true ∧
    Command.wf ⟨.XBENC, [255, 7, 1]⟩ = true ∧ Command.wf ⟨.ENCODE, []⟩ = true := by decide
theorem test_ill_formed_command_does_not_assemble : Command.assemble ⟨.BROTL, [0x81, 8]⟩ = none := by decide

/-! ### Decode: the patterns of R85, each operand bit distinct from its neighbours -/

/-- What the decoder answers, without the reason of a rejection. -/
def decoded (w : Word) : Option Instr := (decode w).toOption

theorem test_decode_nop : decoded 0b00000000000000000000000000000000#32 = some .nop := by decide
theorem test_decode_keyclr : decoded 0b00000001000000000000000000000000#32 = some .keyclr := by decide
theorem test_decode_keypush : decoded 0b00000010000000000000000010100101#32 = some (.keypush 0xA5#8) := by decide
theorem test_decode_seed : decoded 0b00000011000000000000000000000000#32 = some .seed := by decide
theorem test_decode_stepclr : decoded 0b00000100000000000000000000000000#32 = some .stepclr := by decide
theorem test_decode_next : decoded 0b00001000000000000000000000000000#32 = some .next := by decide
theorem test_decode_ksbyte : decoded 0b00001001000000000000000000000000#32 = some .ksbyte := by decide
theorem test_decode_ksxor : decoded 0b00001010000000000000000000000000#32 = some .ksxor := by decide
theorem test_decode_bsadv : decoded 0b00010000000000000000000000000000#32 = some .bsadv := by decide
theorem test_decode_blkfwd : decoded 0b00010001000000000000000000000000#32 = some .blkfwd := by decide
theorem test_decode_blkinv : decoded 0b00010010000000000000000000000000#32 = some .blkinv := by decide
theorem test_decode_tsadv : decoded 0b00011000000000000000000000000000#32 = some .tsadv := by decide
theorem test_decode_rot13 : decoded 0b00011001000000000000000001000001#32 = some (.rot13 0x41#8) := by decide
theorem test_decode_brotl : decoded 0b00011010000000000000001110000001#32 = some (.brotl 0x81#8 3#3) := by decide
theorem test_decode_brotr : decoded 0b00011011000000000000011010000001#32 = some (.brotr 0x81#8 6#3) := by decide
theorem test_decode_xbenc : decoded 0b00011100000000000000110101000001#32 = some (.xbenc 0x41#8 5#3 true) := by decide
theorem test_decode_xbdec : decoded 0b00011101000000000000010001110010#32 = some (.xbdec 0x72#8 4#3 false) := by decide
theorem test_decode_xfenc : decoded 0b00011110000000000000000000000000#32 = some .xfenc := by decide
theorem test_decode_xfdec : decoded 0b00011111000000000000000000000000#32 = some .xfdec := by decide
theorem test_decode_encode : decoded 0b00100000000000000000000000000000#32 = some .encode := by decide
theorem test_decode_decode : decoded 0b00100001000000000000000000000000#32 = some .decode := by decide

/-- V15, the first seven rows: the illegal words. -/
theorem test_decode_illegal_words :
    [0x05000000#32, 0x22000000#32, 0xFF000000#32, 0x00000001#32, 0x02000100#32, 0x08001000#32, 0x1A000800#32,
      0x1C800041#32].map decoded = [none, none, none, none, none, none, none, none] := by decide

/-- R90's examples. -/
theorem test_assemble_examples :
    Command.assemble ⟨.KEYPUSH, [0x41]⟩ = some 0x02000041#32 ∧ Command.assemble ⟨.BROTL, [0x81, 3]⟩ = some 0x1A000381#32 ∧
    Command.assemble ⟨.XBENC, [0x41, 5, 1]⟩ = some 0x1C000D41#32 := by decide

theorem test_table_word : decodeTableWord 32 0x1C000D41 = some (.xbenc 0x41#8 5#3 true) := by decide

/-! ### Commands: one step each -/

/-- V14. -/
theorem test_nop : (nextOf (exec .nop { State.reset with errcode := 1#3 })).map (·.errcode) = some 0#3 := by decide
/-- V14. -/
theorem test_keyclr :
    (nextOf (exec .keyclr (keyed 1#8 2#8 3#8 4#8))).map (fun t => (t.key.le32, t.kcnt)) = some (0#32, 0#4) := by decide
/-- V14: KCNT = 0, 4 and 15. -/
theorem test_keypush_stores :
    (nextOf (exec (.keypush 0xAA#8) State.reset)).map (fun t => (t.key.le32, t.kcnt)) = some (0x000000AA#32, 1#4) := by
  decide
theorem test_keypush_only_counts :
    (nextOf (exec (.keypush 0x05#8) (keyed 1#8 2#8 3#8 4#8))).map (fun t => (t.key.le32, t.kcnt)) =
      some (0x04030201#32, 5#4) ∧
    (nextOf (exec (.keypush 0x00#8) (lenKcnt 0#16 15#4))).map (·.kcnt) = some 15#4 := by decide
/-- V14, V1. -/
theorem test_seed :
    (nextOf (exec .seed (keyed 1#8 2#8 3#8 4#8))).map (fun t => (t.seed, t.x)) = some (0x04030201#32, 0x04030201#32) ∧
    (nextOf (exec .seed (keyed 0#8 0#8 0#8 0x80#8))).map (·.seed) = some 0x80000000#32 := by decide
theorem test_seed_needs_four_bytes :
    (nextOf (exec .seed { keyed 1#8 2#8 3#8 0#8 with kcnt := 3#4 })).map (fun t => (t.errcode, t.seed, t.x)) =
      some (2#3, 0#32, 0#32) ∧
    (nextOf (exec .seed (lenKcnt 0#16 5#4))).map (·.errcode) = some 2#3 := by decide
/-- V14. -/
theorem test_stepclr :
    (nextOf (exec .stepclr { State.reset with bstep := 4#3, tstep := 5#3 })).map (·.regValue .step) =
      some (some 0#32) := by decide
/-- V2. -/
theorem test_next :
    (nextOf (exec .next { State.reset with x := 0xFFFFFFFF#32 })).map (fun t => (t.x, t.result)) =
      some (0xFB93866F#32, 0xFB93866F#32) := by decide
theorem test_generator_corners :
    genNext 0x7FFFFFFF#32 = 0xF823FFB2#32 ∧ genNext 0x80000000#32 = 0x6364364A#32 ∧
    genNext 0xD491D859#32 = 0x00000000#32 := by decide
/-- V4. -/
theorem test_ksbyte :
    (nextOf (exec .ksbyte { State.reset with x := 0x04030201#32 })).map (fun t => (t.x, t.result)) =
      some (0x9EFEAB3E#32, 0x0000003E#32) := by decide
theorem test_ksxor :
    (nextOf (exec .ksxor (withBuf { State.reset with seed := 0x04030201#32, x := 0x12345678#32 }
      (List.replicate 8 0#8)))).map (fun t => (t.bytes 0 8, t.x)) = some (keystream8, 0x6B4D7FEB#32) := by decide
theorem test_ksxor_zero_length :
    (nextOf (exec .ksxor { State.reset with seed := 0x04030201#32, x := 0xAAAAAAAA#32 })).map (·.x) =
      some 0x04030201#32 := by decide
/-- V5: from 7, BSADV gives 4 and TSADV gives 5; neither changes the other counter. -/
theorem test_bsadv :
    (nextOf (exec .bsadv { State.reset with bstep := 7#3, tstep := 3#3 })).map (fun t => (t.bstep, t.tstep, t.result)) =
      some (4#3, 3#3, 4#32) := by decide
theorem test_tsadv :
    (nextOf (exec .tsadv { State.reset with bstep := 3#3, tstep := 7#3 })).map (fun t => (t.bstep, t.tstep, t.result)) =
      some (3#3, 5#3, 5#32) := by decide
/-- V9, N = 13. -/
theorem test_blkfwd :
    (nextOf (exec .blkfwd (withBuf State.reset (counting 13)))).map (fun t => (t.bytes 0 13, t.bstep)) =
      some ([4#8, 5#8, 6#8, 7#8, 0#8, 1#8, 2#8, 3#8, 9#8, 10#8, 11#8, 12#8, 8#8], 1#3) := by decide
theorem test_blkinv :
    (nextOf (exec .blkinv (withBuf State.reset (counting 13)))).map (fun t => (t.bytes 0 13, t.bstep)) =
      some ([4#8, 5#8, 6#8, 7#8, 0#8, 1#8, 2#8, 3#8, 12#8, 8#8, 9#8, 10#8, 11#8], 1#3) := by decide
/-- V6. -/
theorem test_rot13 :
    (nextOf (exec (.rot13 0x41#8) State.reset)).map (·.result) = some 0x0000004E#32 := by decide
theorem test_rot13_corners :
    [0x40#8, 0x4D#8, 0x4E#8, 0x5A#8, 0x5B#8, 0x60#8, 0x61#8, 0x6D#8, 0x6E#8, 0x7A#8, 0x7B#8, 0xC1#8].map rot13 =
      [0x40#8, 0x5A#8, 0x41#8, 0x4D#8, 0x5B#8, 0x60#8, 0x6E#8, 0x7A#8, 0x61#8, 0x6D#8, 0x7B#8, 0xC1#8] := by decide
/-- V7. -/
theorem test_brotl :
    (nextOf (exec (.brotl 0x81#8 3#3) State.reset)).map (·.result) = some 0x0000000C#32 ∧
    (nextOf (exec (.brotl 0x81#8 0#3) State.reset)).map (·.result) = some 0x00000081#32 := by decide
theorem test_brotr :
    (nextOf (exec (.brotr 0x81#8 3#3) State.reset)).map (·.result) = some 0x00000030#32 ∧
    (nextOf (exec (.brotr 0x01#8 7#3) State.reset)).map (·.result) = some 0x00000002#32 := by decide
/-- V8. -/
theorem test_xbenc :
    (nextOf (exec (.xbenc 0x41#8 5#3 true) State.reset)).map (·.result) = some 0x00000072#32 ∧
    (nextOf (exec (.xbenc 0x41#8 5#3 false) State.reset)).map (·.result) = some 0x000000C9#32 := by decide
theorem test_xbdec :
    (nextOf (exec (.xbdec 0x72#8 5#3 true) State.reset)).map (·.result) = some 0x00000041#32 ∧
    (nextOf (exec (.xbdec 0xC9#8 5#3 false) State.reset)).map (·.result) = some 0x00000041#32 := by decide
/-- V10. -/
theorem test_xfenc :
    (nextOf (exec .xfenc (withBuf State.reset hello))).map (fun t => (t.bytes 0 13, t.tstep)) = some (helloA, 2#3) := by
  decide
theorem test_xfdec :
    (nextOf (exec .xfdec (withBuf State.reset helloA))).map (fun t => (t.bytes 0 13, t.tstep)) = some (hello, 2#3) := by
  decide
/-- V11. -/
theorem test_encode :
    (nextOf (exec .encode (withBuf (keyed 1#8 2#8 3#8 4#8) hello))).map
      (fun t => (t.bytes 0 13, t.seed, t.x, t.bstep, t.tstep)) =
      some (helloC, 0x04030201#32, 0x707F44D7#32, 1#3, 2#3) := by decide
theorem test_decode_command :
    (nextOf (exec .decode (withBuf (keyed 1#8 2#8 3#8 4#8) helloC))).map
      (fun t => (t.bytes 0 13, t.seed, t.x, t.bstep, t.tstep)) =
      some (hello, 0x04030201#32, 0x707F44D7#32, 1#3, 2#3) := by decide

/-- The order of the checks (V15): key before length, KSXOR no key, NEXT neither. -/
theorem test_order_of_checks :
    [0x20000000#32, 0x21000000#32, 0x03000000#32, 0x0A000000#32, 0x08000000#32, 0x05000000#32].map
      (fun w => (nextOf (runCommand w (lenKcnt 257#16 5#4))).map (·.errcode)) =
      [some 2#3, some 2#3, some 2#3, some 3#3, some 0#3, some 1#3] := by decide

/-! ### The bus (V16) -/

/-- The response to one transaction on a state, or `none` for a bus error. -/
def respondsTo (e : HostEvent) (s : State) : Option (List Response) := (nextOf (perform e s)).map (·.responses)

theorem test_bus_errors :
    [HostEvent.read 0x000 4, .read 0x004 1, .read 0x006 4, .write 0x004 4 0#32, .write 0x014 4 1#32, .read 0x024 4,
      .read 0x0FC 4, .write 0x101 2 0#32, .read 0x1FE 4, .read 0x200 1].map
      (fun e => faultOf (perform e State.reset) == some (.busError e)) =
      [true, true, true, true, true, true, true, true, true, true] := by decide
theorem test_write_len :
    (nextOf (perform (.write 0x010 4 0x00120034#32) State.reset)).map (·.len) = some 0x0034#16 := by decide
theorem test_write_x :
    (nextOf (perform (.write 0x018 4 0xDEADBEEF#32) State.reset)).map (fun t => t.regValue .x) =
      some (some 0xDEADBEEF#32) := by decide
theorem test_window_is_little_endian :
    (nextOf (perform (.write 0x100 4 0x6C6C6548#32) State.reset)).map (·.bytes 0 4) =
      some [0x48#8, 0x65#8, 0x6C#8, 0x6C#8] := by decide
theorem test_window_halfword :
    (nextOf (perform (.write 0x102 2 0xBEEF#32) State.reset)).map (·.bytes 2 2) = some [0xEF#8, 0xBE#8] := by decide
/-- P2, step 13: the first four bytes of the ciphertext as one word. -/
theorem test_window_read_word :
    respondsTo (.read 0x100 4) (withBuf State.reset helloC) = some [.data 4 0x09F02F18#32] := by decide
theorem test_window_ends_are_legal :
    busLegal (.read 0x1FC 4) = true ∧ busLegal (.read 0x1FF 1) = true ∧ busLegal (.read 0x1FE 2) = true ∧
    busLegal (.read 0x200 1) = false ∧ busLegal (.read 0x0FC 4) = false := by decide
/-- P2, step 17. -/
theorem test_read_step :
    respondsTo (.read 0x020 4) { State.reset with bstep := 1#3, tstep := 2#3 } = some [.data 4 0x00000201#32] := by
  decide
/-- V14, P4 step 7, P1 step 7: KEY, KCNT, SEED. -/
theorem test_read_key :
    respondsTo (.read 0x008 4) (keyed 0xAA#8 2#8 3#8 4#8) = some [.data 4 0x040302AA#32] := by decide
theorem test_read_kcnt : respondsTo (.read 0x00C 4) (lenKcnt 0#16 5#4) = some [.data 4 5#32] := by decide

/-! ### The step and reset -/

/-- `withFetchWord` makes the very next step run the word: TSADV from reset (V5). -/
theorem test_step_runs_fetch_word :
    (nextOf (step (State.reset.withFetchWord 32 0x18000000))).map (fun t => (t.tstep, t.errcode, t.pending)) =
      some (5#3, 0#3, []) := by decide
/-- P4, step 13: an illegal word is OK on the bus, and ILLEGAL_CMD. -/
theorem test_step_illegal_word :
    (nextOf (step (State.reset.withFetchWord 32 0x00000001))).map (fun t => (t.errcode, t.responses)) =
      some (1#3, [.ok]) := by decide
/-- From reset with nothing pending the machine idles (R22). -/
theorem test_step_idle : nextOf (step State.reset) = some State.reset := by decide
/-- The reset event (R250). -/
theorem test_reset_event :
    (nextOf (step { withBuf (keyed 1#8 2#8 3#8 4#8) hello with pending := [.reset] })).map
      (fun t => (t.key.le32, t.kcnt, t.len, t.buf.length, t.draw)) = some (0#32, 0#4, 0#16, 0, 1) := by decide
theorem test_nmax : Config.nMax = 256 := by decide

/-! ### The assembler (R90..R92) -/

/-- SETKEY (P2, steps 1 to 5). -/
theorem test_asm_setkey :
    AsmLine.expand (.setkey 1 2 3 4) = some [.write 0x000 4 0x01000000#32, .write 0x000 4 0x02000001#32,
      .write 0x000 4 0x02000002#32, .write 0x000 4 0x02000003#32, .write 0x000 4 0x02000004#32] := by decide
theorem test_asm_loadbuf :
    AsmLine.expand (.loadbuf 3 [0x18, 0x2F]) = some [.write 0x103 1 0x18#32, .write 0x104 1 0x2F#32] := by decide
theorem test_asm_value_out_of_range : AsmLine.expand (.write 1 0x100 256) = none := by decide
theorem test_asm_text :
    readLine ['B', 'R', 'O', 'T', 'L', ' ', '0', 'x', '8', '1', ',', ' ', '3'] =
      some (.command ⟨.BROTL, [0x81, 3]⟩) ∧
    readLine ['R', 'D', '8', ' ', 'B', 'U', 'F', '+', '1', '2'] = some (.read 1 0x10C) := by decide

/-! ### The hypotheses of the obligations are met

One theorem for each obligation that has hypotheses: concrete states and operands that meet them together, one group for
each clause, at the ends of its range. -/

/-- Reset, with these events pending. -/
def pendingState (es : List HostEvent) : State := { State.reset with pending := es }

theorem test_meets_EncodeOfDecodeIsTheWord : decode 0x1C000FFF#32 = .ok (.xbenc 0xFF#8 7#3 true) := by rfl

theorem test_meets_LegalWordsAreTheRowsOfTheTable :
    (∃ row ∈ opcodeRows, rowMatches 0x21000000#32 row) ∧ (∀ row ∈ opcodeRows, ¬rowMatches 0x22000000#32 row) ∧
    (∀ row ∈ opcodeRows, ¬rowMatches 0x1C001000#32 row) := by
  simp [rowMatches, opcodeRows]

theorem test_meets_AssemblyRoundTrip :
    Command.wf ⟨.XBDEC, [255, 7, 1]⟩ = true ∧ Command.wf ⟨.XBDEC, [255, 7, 2]⟩ = false := by decide

theorem test_meets_ResetEventReturnsToResetValues : (pendingState [.reset, .reset]).pending = .reset :: [.reset] := by rfl

theorem test_meets_StepRunsTheDecodedCommand :
    (pendingState [.write 0x000 4 0x0200005A#32]).pending = .write 0x000 4 0x0200005A#32 :: [] ∧
    decode 0x0200005A#32 = .ok (.keypush 0x5A#8) ∧ (Instr.keypush 0x5A#8).wf = true := by
  exact ⟨rfl, rfl, by decide⟩

theorem test_meets_StepOfAnIllegalWordSetsIllegalCmd :
    (pendingState [.write 0x000 4 0x02000100#32]).pending = .write 0x000 4 0x02000100#32 :: [] ∧
    decode 0x02000100#32 = .error (.reservedBits 0x02#8) ∧ decode 0x05000000#32 = .error (.unassignedOpcode 0x05#8) := by
  exact ⟨rfl, rfl, rfl⟩

/-- Two key bytes pushed, the first and the last buffer byte written, a write of the last one pending. -/
def invState : State :=
  { State.reset with key := ⟨0xAA#8, 0xBB#8, 0#8, 0#8⟩, kcnt := 2#4, errcode := 3#3,
                     buf := [(0, 1#8), (255, 2#8)], pending := [.write 0x1FF 1 7#32] }

theorem test_meets_EveryStepKeepsTheInvariant :
    Inv invState ∧ step invState =
      .next { invState with buf := [(0, 1#8), (255, 7#8)], pending := [], responses := [.ok] } := by
  exact ⟨⟨by decide, by decide, by unfold unpushedKeyZero; decide⟩, rfl⟩

theorem test_meets_StepTakesTheOldestEvent :
    State.reset.pending = [] ∧ invState.pending = .write 0x1FF 1 7#32 :: [] ∧
    step invState = .next { invState with buf := [(0, 1#8), (255, 7#8)], pending := [], responses := [.ok] } ∧
    (pendingState [.reset]).pending = .reset :: [] ∧
    step (pendingState [.reset]) = .next { State.reset with draw := 1 } := by
  exact ⟨rfl, rfl, rfl, rfl, rfl⟩

/-- KCNT 3 and 5 fail the key check, 4 meets it; LEN 256 meets the length check, 257 fails it. -/
theorem test_meets_EveryCommandCompletesWithTheFirstCode :
    decode 0x00000001#32 = .error (.reservedBits 0x00#8) ∧ decode 0x20000000#32 = .ok .encode ∧ usesKey .encode ∧
    usesLength .encode ∧ (lenKcnt 256#16 3#4).kcnt ≠ 4#4 ∧ (lenKcnt 256#16 5#4).kcnt ≠ 4#4 ∧
    (lenKcnt 257#16 4#4).kcnt = 4#4 ∧ Config.nMax < (lenKcnt 257#16 4#4).len.toNat ∧
    (lenKcnt 256#16 4#4).len.toNat ≤ Config.nMax ∧ decode 0x0A000000#32 = .ok .ksxor ∧ ¬usesKey .ksxor ∧
    decode 0x00000000#32 = .ok .nop ∧ ¬usesKey .nop ∧ ¬usesLength .nop := by
  unfold usesKey usesLength
  exact ⟨rfl, rfl, by decide, by decide, by decide, by decide, by decide, by decide, by decide, rfl, by decide, rfl,
    by decide, by decide⟩

theorem test_meets_ErrorsArePrecise :
    runCommand 0x0A000000#32 (lenKcnt 257#16 0#4) = .next { lenKcnt 257#16 0#4 with errcode := 3#3 } ∧
    ({ lenKcnt 257#16 0#4 with errcode := 3#3 } : State).errcode ≠ 0#3 := by
  exact ⟨rfl, by decide⟩

theorem test_meets_FailedChecksChangeOnlyErrcode :
    usesKey .seed ∧ (lenKcnt 0#16 3#4).kcnt ≠ 4#4 ∧ usesLength .xfdec ∧ ¬usesKey .xfdec ∧ usesLength .decode ∧
    (lenKcnt 257#16 4#4).kcnt = 4#4 ∧ Config.nMax < (lenKcnt 257#16 4#4).len.toNat ∧ ¬usesLength .seed := by
  unfold usesKey usesLength; decide

theorem test_meets_KeypushAppendsOrOnlyCounts :
    (lenKcnt 0#16 0#4).kcnt = 0#4 ∧ (lenKcnt 0#16 1#4).kcnt = 1#4 ∧ (lenKcnt 0#16 2#4).kcnt = 2#4 ∧
    (lenKcnt 0#16 3#4).kcnt = 3#4 ∧
    (4 ≤ (lenKcnt 0#16 4#4).kcnt.toNat ∧ (lenKcnt 0#16 4#4).kcnt.toNat < 15) ∧
    (4 ≤ (lenKcnt 0#16 14#4).kcnt.toNat ∧ (lenKcnt 0#16 14#4).kcnt.toNat < 15) ∧
    (lenKcnt 0#16 15#4).kcnt = 15#4 := by decide

theorem test_meets_SeedDerivesAndLoads :
    (keyed 1#8 2#8 3#8 4#8).kcnt = 4#4 ∧ (lenKcnt 0#16 3#4).kcnt ≠ 4#4 ∧ (lenKcnt 0#16 5#4).kcnt ≠ 4#4 := by decide

theorem test_meets_GeneratorIsNotInjective : 1 ≤ 1 ∧ 1 ≤ 31 ∧ 31 ≤ 31 := by decide

theorem test_meets_KsbyteReturnsTheNextKeystreamByte :
    State.reset.x = State.reset.seed ∧
    ({ State.reset with seed := 0x04030201#32, x := 0x9EFEAB3E#32 } : State).x = keystreamState 0x04030201#32 0 ∧
    ({ State.reset with seed := 0x04030201#32, x := 0xDC82D024#32 } : State).x = keystreamState 0x04030201#32 1 := by
  decide

/-- LEN = 0, 256 and 257, and the last byte below LEN. -/
theorem test_meets_KsxorXorsTheKeystream :
    (lenKcnt 0#16 0#4).len.toNat ≤ Config.nMax ∧ (lenKcnt 256#16 0#4).len.toNat ≤ Config.nMax ∧
    255 < (lenKcnt 256#16 0#4).len.toNat ∧ (lenKcnt 256#16 0#4).len.toNat ≤ 256 ∧
    Config.nMax < (lenKcnt 257#16 0#4).len.toNat := by decide

theorem test_meets_KsxorIsItsOwnInverse : (lenKcnt 256#16 0#4).len.toNat ≤ Config.nMax := by decide

theorem test_meets_StagesRestartTheirOwnState :
    (lenKcnt 256#16 4#4).len.toNat ≤ Config.nMax ∧ (lenKcnt 256#16 4#4).kcnt = 4#4 := by decide

/-- LEN = 13: a block of 8 at 0 and one of 5 at 8. LEN = 256: the last block at 248. -/
theorem test_meets_BlkfwdRotatesEachBlockLeft :
    (lenKcnt 13#16 0#4).len.toNat ≤ Config.nMax ∧ isBlock (lenKcnt 13#16 0#4).len.toNat 8 ∧
    4 < blockSize (lenKcnt 13#16 0#4).len.toNat 8 ∧ (lenKcnt 13#16 0#4).len.toNat ≤ 13 ∧
    (lenKcnt 256#16 0#4).len.toNat ≤ Config.nMax ∧ isBlock (lenKcnt 256#16 0#4).len.toNat 248 ∧
    7 < blockSize (lenKcnt 256#16 0#4).len.toNat 248 ∧ Config.nMax < (lenKcnt 257#16 0#4).len.toNat := by
  unfold isBlock; decide

/-- LEN = 9: a block of 8 and one of size 1. -/
theorem test_meets_BlkinvRotatesEachBlockRight :
    (lenKcnt 9#16 0#4).len.toNat ≤ Config.nMax ∧ isBlock (lenKcnt 9#16 0#4).len.toNat 8 ∧
    0 < blockSize (lenKcnt 9#16 0#4).len.toNat 8 ∧ (lenKcnt 9#16 0#4).len.toNat ≤ 9 ∧
    Config.nMax < (lenKcnt 257#16 0#4).len.toNat := by
  unfold isBlock; decide

theorem test_meets_BlockRotationsAreInverse :
    7 < (counting 8).length ∧ 0 < (counting 1).length ∧ (lenKcnt 256#16 0#4).len.toNat ≤ Config.nMax := by decide

/-- The two ends of each range of R180, and its neighbours. -/
theorem test_meets_Rot13Substitutes :
    (0x41 ≤ (0x41#8).toNat ∧ (0x4D#8).toNat ≤ 0x4D) ∧ (0x61 ≤ (0x61#8).toNat ∧ (0x6D#8).toNat ≤ 0x6D) ∧
    (0x4E ≤ (0x4E#8).toNat ∧ (0x5A#8).toNat ≤ 0x5A) ∧ (0x6E ≤ (0x6E#8).toNat ∧ (0x7A#8).toNat ≤ 0x7A) ∧
    (0x40#8).toNat < 0x41 ∧ (0x5A < (0x5B#8).toNat ∧ (0x60#8).toNat < 0x61) ∧ 0x7A < (0x7B#8).toNat := by decide

theorem test_meets_XfencTransformsEachByte :
    (lenKcnt 256#16 0#4).len.toNat ≤ Config.nMax ∧ 0 < (lenKcnt 256#16 0#4).len.toNat ∧
    255 < (lenKcnt 256#16 0#4).len.toNat ∧ (lenKcnt 0#16 0#4).len.toNat ≤ 0 ∧
    Config.nMax < (lenKcnt 257#16 0#4).len.toNat := by decide

theorem test_meets_XfdecTransformsEachByte :
    (lenKcnt 1#16 0#4).len.toNat ≤ Config.nMax ∧ 0 < (lenKcnt 1#16 0#4).len.toNat ∧
    (lenKcnt 1#16 0#4).len.toNat ≤ 1 ∧ Config.nMax < (lenKcnt 65535#16 0#4).len.toNat := by decide

theorem test_meets_ByteTransformsAreInverse : (lenKcnt 256#16 0#4).len.toNat ≤ Config.nMax := by decide

theorem test_meets_ByteRotationLaws : 0 ≤ 7 ∧ 7 ≤ 7 := by decide

theorem test_meets_EncodeEncrypts :
    (lenKcnt 13#16 4#4).kcnt = 4#4 ∧ (lenKcnt 13#16 4#4).len.toNat ≤ Config.nMax ∧
    isBlock (lenKcnt 13#16 4#4).len.toNat 8 ∧ 4 < blockSize (lenKcnt 13#16 4#4).len.toNat 8 ∧
    (lenKcnt 13#16 4#4).len.toNat ≤ 13 ∧ (lenKcnt 13#16 5#4).kcnt ≠ 4#4 ∧
    ((lenKcnt 257#16 4#4).kcnt = 4#4 ∧ Config.nMax < (lenKcnt 257#16 4#4).len.toNat) := by
  unfold isBlock; decide

theorem test_meets_DecodeDecrypts :
    (lenKcnt 256#16 4#4).kcnt = 4#4 ∧ (lenKcnt 256#16 4#4).len.toNat ≤ Config.nMax ∧
    isBlock (lenKcnt 256#16 4#4).len.toNat 248 ∧ 7 < blockSize (lenKcnt 256#16 4#4).len.toNat 248 ∧
    (lenKcnt 256#16 4#4).len.toNat ≤ 256 ∧ (lenKcnt 256#16 0#4).kcnt ≠ 4#4 ∧
    ((lenKcnt 257#16 4#4).kcnt = 4#4 ∧ Config.nMax < (lenKcnt 257#16 4#4).len.toNat) := by
  unfold isBlock; decide

theorem test_meets_RoundTrip :
    (lenKcnt 256#16 4#4).kcnt = 4#4 ∧ (lenKcnt 256#16 4#4).len.toNat ≤ Config.nMax := by decide

theorem test_meets_ZeroLengthAppliesNoStage :
    (keyed 1#8 2#8 3#8 4#8).kcnt = 4#4 ∧ (keyed 1#8 2#8 3#8 4#8).len = 0#16 := by decide

/-- Two states that differ in all else: SEED, X, RESULT, counters, ERRCODE, and the byte at LEN. -/
theorem test_meets_PipelineReadsNothingElse :
    let s := withBuf (keyed 1#8 2#8 3#8 4#8) [7#8]
    let s' : State := { s with seed := 5#32, x := 6#32, result := 7#32, bstep := 1#3, tstep := 2#3, errcode := 3#3,
                               buf := [(0, 7#8), (1, 8#8)] }
    s.key = s'.key ∧ s.kcnt = s'.kcnt ∧ s.len = s'.len ∧ ∀ j, j < s.len.toNat → s.byte j = s'.byte j := by
  refine ⟨rfl, rfl, rfl, fun j hj => ?_⟩
  have : j = 0 := Nat.lt_one_iff.mp hj
  subst this
  rfl

theorem test_meets_PipelineEqualsItsStages :
    ((lenKcnt 256#16 4#4).kcnt = 4#4 ∧ (lenKcnt 256#16 4#4).len.toNat ≤ Config.nMax) ∧
    ¬((lenKcnt 257#16 4#4).kcnt = 4#4 ∧ (lenKcnt 257#16 4#4).len.toNat ≤ Config.nMax) ∧
    ¬((lenKcnt 256#16 3#4).kcnt = 4#4 ∧ (lenKcnt 256#16 3#4).len.toNat ≤ Config.nMax) := by decide

/-- With LEN = 0 and with LEN = 1, for a command of each of the three groups. -/
theorem test_meets_RegistersAfterAStage :
    (∃ t, exec .ksxor (lenKcnt 0#16 0#4) = .next t ∧ t.errcode = 0#3) ∧ (lenKcnt 0#16 0#4).len.toNat = 0 ∧
    (∃ t, exec .blkfwd (withBuf State.reset [7#8]) = .next t ∧ t.errcode = 0#3) ∧
    (∃ t, exec .xfdec (withBuf State.reset [7#8]) = .next t ∧ t.errcode = 0#3) ∧
    1 ≤ (withBuf State.reset [7#8]).len.toNat := by
  exact ⟨⟨_, rfl, rfl⟩, rfl, ⟨_, rfl, rfl⟩, ⟨_, rfl, rfl⟩, by decide⟩

/-- Each clause's premise happens: a command that changes each piece of state. -/
theorem test_meets_CommandsWriteOnlyTheirRow :
    (∃ t, exec (.keypush 9#8) State.reset = .next t ∧ t.key ≠ State.reset.key ∧ t.kcnt ≠ State.reset.kcnt) ∧
    (∃ t, exec .seed (keyed 1#8 2#8 3#8 4#8) = .next t ∧ t.seed ≠ 0#32 ∧ t.x ≠ 0#32) ∧
    (∃ t, exec .bsadv State.reset = .next t ∧ t.result ≠ 0#32 ∧ t.bstep ≠ 0#3) ∧
    (∃ t, exec .tsadv State.reset = .next t ∧ t.tstep ≠ 0#3) ∧
    (∃ t, exec .xfenc (withBuf State.reset [0x41#8]) = .next t ∧ t.byte 0 ≠ (withBuf State.reset [0x41#8]).byte 0) := by
  exact ⟨⟨_, rfl, by decide, by decide⟩, ⟨_, rfl, by decide, by decide⟩, ⟨_, rfl, by decide, by decide⟩,
    ⟨_, rfl, by decide⟩, ⟨_, rfl, by decide⟩⟩

theorem test_meets_CountersAreIndependent :
    ∃ t, exec .stepclr { State.reset with bstep := 4#3, tstep := 5#3 } = .next t ∧ t.bstep ≠ 4#3 ∧ t.tstep ≠ 5#3 := by
  exact ⟨_, rfl, by decide, by decide⟩

theorem test_meets_SeedChangesOnlyByDerivation :
    ∃ t, step { keyed 1#8 2#8 3#8 4#8 with pending := [.write 0x000 4 0x03000000#32] } = .next t ∧ t.seed ≠ 0#32 := by
  exact ⟨_, rfl, by decide⟩

/-- The first and the last permitted access of each size, and the first forbidden ones. -/
theorem test_meets_WindowReadsAndWrites :
    [(0x100, 1), (0x1FF, 1), (0x100, 2), (0x1FE, 2), (0x100, 4), (0x1FC, 4)].all (fun a =>
      decide (0x100 ≤ a.1 ∧ (a.2 = 1 ∨ a.2 = 2 ∨ a.2 = 4) ∧ (a.1 - 0x100) % a.2 = 0 ∧ a.1 - 0x100 + a.2 ≤ Config.nMax)) =
      true ∧
    [(0x200, 1), (0x101, 2), (0x200, 2), (0x102, 4), (0x200, 4), (0x100, 3), (0x100, 0), (0x100, 8)].all (fun a =>
      decide (0x100 ≤ a.1 ∧
        ¬((a.2 = 1 ∨ a.2 = 2 ∨ a.2 = 4) ∧ (a.1 - 0x100) % a.2 = 0 ∧ a.1 - 0x100 + a.2 ≤ Config.nMax))) = true := by
  decide

theorem test_meets_MixedWidthAccessSeesOneArray :
    (252 % 4 = 0 ∧ 252 + 4 ≤ Config.nMax) ∧ (254 % 2 = 0 ∧ 254 + 2 ≤ Config.nMax) := by decide

theorem test_meets_ReadsHaveNoSideEffects :
    (∃ t, perform (.read 0x018 4) State.reset = .next t) ∧ State.reset.buf.wf = true ∧
    (∃ t, perform (.write 0x1FC 4 0xDEADBEEF#32) State.reset = .next t) ∧
    (∃ t, perform (.write 0x010 4 0xDEADBEEF#32) State.reset = .next t) := by
  exact ⟨⟨_, rfl⟩, rfl, ⟨_, rfl⟩, ⟨_, rfl⟩⟩

theorem test_meets_ABusErrorChangesNoState :
    busLegal (.write 0x004 4 0#32) = false ∧ busLegal (.read 0x200 1) = false := by decide

theorem test_meets_SteppingRunsTheProgram :
    programLegal [commandWrite 0x02000001#32, .write 0x100 4 1#32, .reset, commandWrite 0xFFFFFFFF#32, .read 0x004 4] =
      true := by decide

end Sys2Proof.Tests
end

section
namespace Sys2Proof.Proofs

open Sys2Proof.Machine Sys2Proof.Safety

/-! ## What one command can do

Every command ends in one of three ways: it completes with its effect, or it fails the key check, or it fails the length
check (60_exceptions.md R231). The effect is written without the checks, so that its frame can be read off it. -/

/-- Only KEY[0..3] exist: a push at a higher count changes no key byte (40_control_key.md R102). -/
theorem key_set_of_four_le (key : Key) (j : BitVec 4) (v : Byte) (h : 4 ≤ j.toNat) : key.set j v = key := by
  unfold Key.set
  split
  case h_5 => rfl
  all_goals omega

section KeySet
variable (key : Key) (j : BitVec 4) (v : Byte)

theorem key_set_k0 : (key.set j v).k0 = if j.toNat = 0 then v else key.k0 := by
  unfold Key.set; split <;> simp_all
theorem key_set_k1 : (key.set j v).k1 = if j.toNat = 1 then v else key.k1 := by
  unfold Key.set; split <;> simp_all
theorem key_set_k2 : (key.set j v).k2 = if j.toNat = 2 then v else key.k2 := by
  unfold Key.set; split <;> simp_all
theorem key_set_k3 : (key.set j v).k3 = if j.toNat = 3 then v else key.k3 := by
  unfold Key.set; split <;> simp_all

end KeySet

/-- What a command does when both of its checks pass, before ERRCODE <- OK. -/
def commandEffect (i : Instr) (s : State) : State :=
  match i with
  | .nop => s
  | .keyclr => (s.setKey ⟨0#8, 0#8, 0#8, 0#8⟩).setKcnt 0#4
  | .keypush imm8 => (s.setKey (s.key.set s.kcnt imm8)).setKcnt (kcntSucc s.kcnt)
  | .seed => loadSeed s
  | .stepclr => (s.setBstep 0#3).setTstep 0#3
  | .next => (s.setX (genNext s.x)).setResult (genNext s.x)
  | .ksbyte => (s.setX (genNext s.x)).setResult (zext32 (low8 (genNext s.x)))
  | .ksxor => ksXorStage s
  | .bsadv => (s.setBstep (blockAdv s.bstep)).setResult (zext32 (blockAdv s.bstep))
  | .blkfwd => blockStage rotFwd s
  | .blkinv => blockStage rotInv s
  | .tsadv => (s.setTstep (byteAdv s.tstep)).setResult (zext32 (byteAdv s.tstep))
  | .rot13 imm8 => s.setResult (zext32 (rot13 imm8))
  | .brotl imm8 k => s.setResult (zext32 (rotl8 imm8 k.toNat))
  | .brotr imm8 k => s.setResult (zext32 (rotr8 imm8 k.toNat))
  | .xbenc imm8 k p => s.setResult (zext32 (xenc imm8 k.toNat p))
  | .xbdec imm8 k p => s.setResult (zext32 (xdec imm8 k.toNat p))
  | .xfenc => xfStage xenc s
  | .xfdec => xfStage xdec s
  | .encode => ksXorStage (blockStage rotFwd (xfStage xenc (loadSeed s)))
  | .decode => xfStage xdec (blockStage rotInv (ksXorStage (loadSeed s)))

theorem exec_keypush_eq (imm8 : Byte) (s : State) :
    exec (.keypush imm8) s = .next ((commandEffect (.keypush imm8) s).setErrcode errOk) := by
  by_cases h : s.kcnt.toNat < 4
  · simp [exec_keypush, execKeypush, commandEffect, complete, h]
  · have hset : s.setKey (s.key.set s.kcnt imm8) = s := by
      rw [key_set_of_four_le _ _ _ (Nat.le_of_not_lt h)]
      rfl
    simp [exec_keypush, execKeypush, commandEffect, complete, h, hset]

/-- How `exec` answers: always with a next state, and which one (60_exceptions.md R231, R233, R234, R236). -/
theorem exec_outcome (i : Instr) (s : State) :
    (exec i s = .next ((commandEffect i s).setErrcode errOk) ∧
      (usesKey i → s.kcnt = 4#4) ∧ (usesLength i → s.len.toNat ≤ Config.nMax)) ∨
    (exec i s = .next (s.setErrcode errInvalidKeyLength) ∧ usesKey i ∧ s.kcnt ≠ 4#4) ∨
    (exec i s = .next (s.setErrcode errBadLength) ∧ usesLength i ∧ Config.nMax < s.len.toNat) := by
  cases i with
  | keypush imm8 => exact .inl ⟨exec_keypush_eq imm8 s, by simp [usesKey], by simp [usesLength]⟩
  | nop | keyclr | stepclr | next | ksbyte | bsadv | tsadv | rot13 | brotl | brotr | xbenc | xbdec =>
    exact .inl ⟨rfl, by simp [usesKey], by simp [usesLength]⟩
  | seed =>
    by_cases hk : s.kcnt = 4#4
    · exact .inl ⟨requireKey_of_eq _ hk, fun _ => hk, by simp [usesLength]⟩
    · exact .inr (.inl ⟨requireKey_of_ne _ hk, by simp [usesKey], hk⟩)
  | ksxor | blkfwd | blkinv | xfenc | xfdec =>
    by_cases hl : s.len.toNat ≤ Config.nMax
    · exact .inl ⟨requireLen_of_le _ hl, by simp [usesKey], fun _ => hl⟩
    · have hl := Nat.lt_of_not_le hl
      exact .inr (.inr ⟨requireLen_of_lt _ hl, by simp [usesLength], hl⟩)
  | encode | decode =>
    by_cases hk : s.kcnt = 4#4
    · by_cases hl : s.len.toNat ≤ Config.nMax
      · exact .inl ⟨(requireKey_of_eq _ hk).trans (requireLen_of_le _ hl), fun _ => hk, fun _ => hl⟩
      · have hl := Nat.lt_of_not_le hl
        exact .inr (.inr ⟨(requireKey_of_eq _ hk).trans (requireLen_of_lt _ hl), by simp [usesLength], hl⟩)
    · exact .inr (.inl ⟨requireKey_of_ne _ hk, by simp [usesKey], hk⟩)

/-- Every command answers a next state. -/
theorem exec_total (i : Instr) (s : State) : ∃ t, exec i s = .next t := by
  rcases exec_outcome i s with ⟨h, -⟩ | ⟨h, -⟩ | ⟨h, -⟩ <;> exact ⟨_, h⟩

/-- The inversion of `exec`: a command that answers `t` has completed with its effect, or has written one of the two
error codes and nothing else (60_exceptions.md R237). -/
theorem exec_cases {i : Instr} {s t : State} (h : exec i s = .next t) :
    (t = (commandEffect i s).setErrcode errOk ∧
      (usesKey i → s.kcnt = 4#4) ∧ (usesLength i → s.len.toNat ≤ Config.nMax)) ∨
    ∃ c, (c = errInvalidKeyLength ∨ c = errBadLength) ∧ t = s.setErrcode c := by
  rcases exec_outcome i s with ⟨e, hc⟩ | ⟨e, -⟩ | ⟨e, -⟩ <;> cases e.symm.trans h
  · exact .inl ⟨rfl, hc⟩
  · exact .inr ⟨_, .inl rfl, rfl⟩
  · exact .inr ⟨_, .inr rfl, rfl⟩

/-! ## The frame of a command's effect, one lemma per row of the write matrix (10_state.md R35) -/

section EffectFrame
variable {i : Instr} {s : State}

theorem commandEffect_key (h : (commandEffect i s).key ≠ s.key) : i = .keyclr ∨ ∃ b, i = .keypush b := by
  cases i with
  | keyclr | keypush => simp
  | _ => exact absurd rfl h

theorem commandEffect_kcnt (h : (commandEffect i s).kcnt ≠ s.kcnt) : i = .keyclr ∨ ∃ b, i = .keypush b := by
  cases i with
  | keyclr | keypush => simp
  | _ => exact absurd rfl h

theorem commandEffect_seed (h : (commandEffect i s).seed ≠ s.seed) : usesKey i := by
  cases i with
  | seed | encode | decode => simp [usesKey]
  | _ => exact absurd rfl h

theorem commandEffect_x (h : (commandEffect i s).x ≠ s.x) :
    i = .seed ∨ i = .next ∨ i = .ksbyte ∨ i = .ksxor ∨ i = .encode ∨ i = .decode := by
  cases i with
  | seed | next | ksbyte | ksxor | encode | decode => simp
  | _ => exact absurd rfl h

theorem commandEffect_result (h : (commandEffect i s).result ≠ s.result) :
    i = .next ∨ i = .ksbyte ∨ i = .bsadv ∨ i = .tsadv ∨ (∃ b, i = .rot13 b) ∨ (∃ b k, i = .brotl b k) ∨
      (∃ b k, i = .brotr b k) ∨ (∃ b k p, i = .xbenc b k p) ∨ (∃ b k p, i = .xbdec b k p) := by
  cases i with
  | next | ksbyte | bsadv | tsadv | rot13 | brotl | brotr | xbenc | xbdec => simp
  | _ => exact absurd rfl h

theorem commandEffect_bstep (h : (commandEffect i s).bstep ≠ s.bstep) :
    i = .stepclr ∨ i = .bsadv ∨ i = .blkfwd ∨ i = .blkinv ∨ i = .encode ∨ i = .decode := by
  cases i with
  | stepclr | bsadv | blkfwd | blkinv | encode | decode => simp
  | _ => exact absurd rfl h

theorem commandEffect_tstep (h : (commandEffect i s).tstep ≠ s.tstep) :
    i = .stepclr ∨ i = .tsadv ∨ i = .xfenc ∨ i = .xfdec ∨ i = .encode ∨ i = .decode := by
  cases i with
  | stepclr | tsadv | xfenc | xfdec | encode | decode => simp
  | _ => exact absurd rfl h

theorem commandEffect_buf (h : (commandEffect i s).buf ≠ s.buf) : usesLength i := by
  cases i with
  | ksxor | blkfwd | blkinv | xfenc | xfdec | encode | decode => simp [usesLength]
  | _ => exact absurd rfl h

/-- No command reaches a buffer byte at or above LEN (20_memory.md R59). -/
theorem commandEffect_byte_above {j : Nat} (hj : s.len.toNat ≤ j) : (commandEffect i s).byte j = s.byte j := by
  cases i with
  | ksxor => exact ksXorStage_byte_above s j hj
  | blkfwd => exact blockStage_byte_above rotFwd rotFwd_length s j hj
  | blkinv => exact blockStage_byte_above rotInv rotInv_length s j hj
  | xfenc => exact xfStage_byte_above xenc s j hj
  | xfdec => exact xfStage_byte_above xdec s j hj
  | encode =>
    calc (ksXorStage (blockStage rotFwd (xfStage xenc (loadSeed s)))).byte j
      _ = (blockStage rotFwd (xfStage xenc (loadSeed s))).byte j := ksXorStage_byte_above _ j hj
      _ = (xfStage xenc (loadSeed s)).byte j := blockStage_byte_above rotFwd rotFwd_length _ j hj
      _ = (loadSeed s).byte j := xfStage_byte_above xenc _ j hj
  | decode =>
    calc (xfStage xdec (blockStage rotInv (ksXorStage (loadSeed s)))).byte j
      _ = (blockStage rotInv (ksXorStage (loadSeed s))).byte j := xfStage_byte_above xdec _ j hj
      _ = (ksXorStage (loadSeed s)).byte j := blockStage_byte_above rotInv rotInv_length _ j hj
      _ = (loadSeed s).byte j := ksXorStage_byte_above _ j hj
  | _ => rfl

/-- A byte of BUF changes only below LEN and under a buffer command. -/
theorem commandEffect_byte {j : Nat} (h : (commandEffect i s).byte j ≠ s.byte j) :
    j < s.len.toNat ∧ usesLength i := by
  refine ⟨Nat.lt_of_not_le fun hj => h (commandEffect_byte_above hj), ?_⟩
  cases i with
  | ksxor | blkfwd | blkinv | xfenc | xfdec | encode | decode => simp [usesLength]
  | _ => exact absurd rfl h

/-- The effect of a command that passes the length check keeps the canonical form of the buffer memory (log 4). -/
theorem commandEffect_wf (hwf : s.buf.wf = true) (hlen : usesLength i → s.len.toNat ≤ Config.nMax) :
    (commandEffect i s).buf.wf = true := by
  by_cases hb : (commandEffect i s).buf = s.buf
  · rwa [hb]
  · have hl := hlen (commandEffect_buf hb)
    cases i with
    | ksxor => exact ksXorStage_wf s hwf hl
    | blkfwd => exact blockStage_wf rotFwd rotFwd_length s hwf hl
    | blkinv => exact blockStage_wf rotInv rotInv_length s hwf hl
    | xfenc => exact xfStage_wf xenc s hwf hl
    | xfdec => exact xfStage_wf xdec s hwf hl
    | encode =>
      exact ksXorStage_wf _ (blockStage_wf rotFwd rotFwd_length _ (xfStage_wf xenc (loadSeed s) hwf hl) hl) hl
    | decode =>
      exact xfStage_wf xdec _ (blockStage_wf rotInv rotInv_length _ (ksXorStage_wf (loadSeed s) hwf hl) hl) hl
    | _ => exact absurd rfl hb

end EffectFrame

/-- Settles O50: a command that fails a check changes ERRCODE alone, and one that completes has the frame above. -/
theorem commandsWriteOnlyTheirRow : Obligations.CommandsWriteOnlyTheirRow := by
  intro i s t h
  obtain ⟨hlen, hdraw, hpending, hresponses⟩ := exec_fixed h
  rcases exec_cases h with ⟨rfl, -⟩ | ⟨c, -, rfl⟩
  · exact ⟨commandEffect_key, commandEffect_kcnt, commandEffect_seed, commandEffect_x, hlen, commandEffect_result,
      commandEffect_bstep, commandEffect_tstep, fun _ => commandEffect_byte, hdraw, hpending, hresponses⟩
  · simp

/-! ## The invariant -/

/-- Settles O10: nothing is written, ERRCODE is OK, and every key byte is zero. -/
theorem invariantAtReset : Obligations.InvariantAtReset where
  bufWf := Memory.wf_reset
  errcodeLegal := by decide
  keyZero := by simp [unpushedKeyZero, State.reset]

theorem kcntSucc_toNat (kcnt : BitVec 4) : (kcntSucc kcnt).toNat = min (kcnt.toNat + 1) 15 := by
  rw [kcntSucc, BitVec.toNat_ofNat]
  omega

/-- Whether unpushed key bytes are zero depends on KEY and KCNT only. -/
theorem unpushedKeyZero_congr {s t : State} (hkey : t.key = s.key) (hkcnt : t.kcnt = s.kcnt)
    (h : unpushedKeyZero s) : unpushedKeyZero t := by
  unfold unpushedKeyZero
  rwa [hkey, hkcnt]

/-- A push stores its byte at index KCNT and leaves that index below the new count, so it touches no byte that is still
unpushed (40_control_key.md R102). -/
theorem keypush_unpushedKeyZero (b : Byte) {s : State} (h : unpushedKeyZero s) :
    unpushedKeyZero (commandEffect (.keypush b) s) := by
  obtain ⟨h0, h1, h2, h3⟩ := h
  simp only [unpushedKeyZero, commandEffect, State.setKcnt_kcnt, State.setKcnt_key, State.setKey_key, kcntSucc_toNat,
    key_set_k0, key_set_k1, key_set_k2, key_set_k3]
  refine ⟨fun hk => by omega, fun hk => ?_, fun hk => ?_, fun hk => ?_⟩
  · rw [if_neg (by omega), h1 (by omega)]
  · rw [if_neg (by omega), h2 (by omega)]
  · rw [if_neg (by omega), h3 (by omega)]

theorem commandEffect_unpushedKeyZero {i : Instr} {s : State} (h : unpushedKeyZero s) :
    unpushedKeyZero (commandEffect i s) := by
  cases i with
  | keyclr => simp [unpushedKeyZero, commandEffect]
  | keypush b => exact keypush_unpushedKeyZero b h
  | _ => exact unpushedKeyZero_congr (s := s) rfl rfl h

/-- An update that keeps the buffer's form, KEY and KCNT and leaves a legal ERRCODE keeps the invariant. -/
theorem inv_of_frame {s t : State} (h : Inv s) (hbuf : t.buf.wf = true) (herr : t.errcode.toNat ≤ 3)
    (hkey : t.key = s.key) (hkcnt : t.kcnt = s.kcnt) : Inv t :=
  ⟨hbuf, herr, unpushedKeyZero_congr hkey hkcnt h.keyZero⟩

theorem setErrcode_inv {s : State} {c : BitVec 3} (h : Inv s) (hc : c.toNat ≤ 3) : Inv (s.setErrcode c) :=
  inv_of_frame h h.bufWf hc rfl rfl

theorem exec_inv {i : Instr} {s t : State} (h : Inv s) (he : exec i s = .next t) : Inv t := by
  rcases exec_cases he with ⟨rfl, -, hlen⟩ | ⟨c, rfl | rfl, rfl⟩
  · exact ⟨commandEffect_wf h.bufWf hlen, Nat.zero_le 3, commandEffect_unpushedKeyZero h.keyZero⟩
  · exact setErrcode_inv h (by decide)
  · exact setErrcode_inv h (by decide)

theorem runCommand_inv {w : Word} {s t : State} (h : Inv s) (he : runCommand w s = .next t) : Inv t := by
  rcases runCommand_cases he with ⟨i, -, he⟩ | ⟨r, -, rfl⟩
  · exact exec_inv h he
  · exact setErrcode_inv h (by decide)

theorem memWrite_inv {off n : Nat} {v : Word} {s t : State} (h : Inv s) (hw : memWrite off n v s = some (.next t)) :
    Inv t := by
  rcases memWrite_cases hw with ⟨-, -, he⟩ | ⟨-, -, rfl⟩ | ⟨-, -, rfl⟩ | ⟨j, hj, -, rfl⟩
  · exact runCommand_inv h he
  · exact inv_of_frame h h.bufWf h.errcodeLegal rfl rfl
  · exact inv_of_frame h h.bufWf h.errcodeLegal rfl rfl
  · obtain ⟨-, -, -, hfit⟩ := addressedBuf_eq_some hj
    have hwf := Memory.wf_storeAll (leBytes n v) s.buf j h.bufWf (by rwa [leBytes_length])
    exact inv_of_frame h hwf h.errcodeLegal rfl rfl

theorem perform_inv {e : HostEvent} {s t : State} (h : Inv s) (he : perform e s = .next t) : Inv t := by
  rcases perform_cases he with ⟨off, n, v, -, -, rfl⟩ | ⟨off, n, v, u, -, hw, rfl⟩ | ⟨-, rfl⟩
  · exact inv_of_frame h h.bufWf h.errcodeLegal rfl rfl
  · have hu := memWrite_inv h hw
    exact inv_of_frame hu hu.bufWf hu.errcodeLegal rfl rfl
  · exact inv_of_frame invariantAtReset Memory.wf_reset invariantAtReset.errcodeLegal rfl rfl

/-- Settles O11: the step is idle, or performs one event, which keeps the invariant. -/
theorem everyStepKeepsTheInvariant : Obligations.EveryStepKeepsTheInvariant := by
  intro s t h hstep
  cases hp : s.pending with
  | nil =>
    cases (step_idle s hp).symm.trans hstep
    exact h
  | cons e es =>
    rw [step_pending s e es hp] at hstep
    have hs : Inv (s.setPending es) := inv_of_frame h h.bufWf h.errcodeLegal rfl rfl
    exact perform_inv hs hstep

/-! ## The counters and SEED -/

/-- A stage command of the buffer commutes with an update of the state that its check and its stage do not look at. -/
theorem requireLen_stage_commutes {stage f : State → State} (hlen : ∀ s, (f s).len = s.len)
    (hstage : ∀ s, stage (f s) = f (stage s)) (herr : ∀ s c, (f s).setErrcode c = f (s.setErrcode c)) (s : State) :
    requireLen (f s) (complete (stage (f s))) =
      andThen (requireLen s (complete (stage s))) fun t => .next (f t) := by
  by_cases hl : s.len.toNat ≤ Config.nMax
  · rw [requireLen_of_le _ hl, requireLen_of_le _ (by rwa [hlen])]
    simp [complete, andThen, hstage, herr]
  · have hl := Nat.lt_of_not_le hl
    rw [requireLen_of_lt _ hl, requireLen_of_lt _ (by rwa [hlen])]
    simp [andThen, herr]

theorem blockStage_setTstep_commutes (rot : List Byte → Nat → List Byte) (s : State) (v : BitVec 3) :
    requireLen (s.setTstep v) (complete (blockStage rot (s.setTstep v))) =
      andThen (requireLen s (complete (blockStage rot s))) fun t => .next (t.setTstep v) :=
  requireLen_stage_commutes (f := fun s => s.setTstep v) (fun _ => rfl) (fun _ => rfl) (fun _ _ => rfl) s

theorem xfStage_setBstep_commutes (g : Byte → Nat → Bool → Byte) (s : State) (v : BitVec 3) :
    requireLen (s.setBstep v) (complete (xfStage g (s.setBstep v))) =
      andThen (requireLen s (complete (xfStage g s))) fun t => .next (t.setBstep v) :=
  requireLen_stage_commutes (f := fun s => s.setBstep v) (fun _ => rfl) (fun _ => rfl) (fun _ _ => rfl) s

/-- Settles O51: the commands of one counter commute with a change of the other, and the two rows of the write matrix
share STEPCLR, ENCODE and DECODE alone. -/
theorem countersAreIndependent : Obligations.CountersAreIndependent := by
  refine ⟨?_, ?_, ?_⟩
  · rintro i s v (rfl | rfl | rfl)
    · rfl
    · exact blockStage_setTstep_commutes rotFwd s v
    · exact blockStage_setTstep_commutes rotInv s v
  · rintro i s v (rfl | rfl | rfl)
    · rfl
    · exact xfStage_setBstep_commutes xenc s v
    · exact xfStage_setBstep_commutes xdec s v
  · intro i s t h hb ht
    rcases exec_cases h with ⟨rfl, -⟩ | ⟨c, -, rfl⟩
    · have htrow := commandEffect_tstep ht
      rcases commandEffect_bstep hb with rfl | rfl | rfl | rfl | rfl | rfl
      case inr.inl | inr.inr.inl | inr.inr.inr.inl => simp at htrow
      all_goals simp
    · exact absurd rfl hb

/-- A command that changes SEED is SEED, ENCODE or DECODE with four key bytes pushed (40_control_key.md R106). -/
theorem exec_seed_changed {i : Instr} {s t : State} (h : exec i s = .next t) (hne : t.seed ≠ s.seed) :
    usesKey i ∧ s.kcnt = 4#4 := by
  rcases exec_cases h with ⟨rfl, hkey, -⟩ | ⟨c, -, rfl⟩
  · have hi := commandEffect_seed hne
    exact ⟨hi, hkey hi⟩
  · exact absurd rfl hne

/-- A host write that changes SEED is the CMD write of such a command. -/
theorem memWrite_seed_changed {off n : Nat} {v : Word} {s t : State} (h : memWrite off n v s = some (.next t))
    (hne : t.seed ≠ s.seed) :
    off = 0x000 ∧ n = 4 ∧ ∃ i, decode v = .ok i ∧ usesKey i ∧ s.kcnt = 4#4 := by
  rcases memWrite_cases h with ⟨hoff, hn, hrun⟩ | ⟨-, -, rfl⟩ | ⟨-, -, rfl⟩ | ⟨j, -, -, rfl⟩
  · rcases runCommand_cases hrun with ⟨i, hd, he⟩ | ⟨r, -, rfl⟩
    · exact ⟨hoff, hn, i, hd, exec_seed_changed he hne⟩
    · exact absurd rfl hne
  all_goals exact absurd rfl hne

/-- Settles O52: of the events that complete, a read keeps SEED, and a write that changes it is such a command. -/
theorem seedChangesOnlyByDerivation : Obligations.SeedChangesOnlyByDerivation := by
  intro s t e es hp hstep hne
  rw [step_pending s e es hp] at hstep
  rcases perform_cases hstep with ⟨off, n, v, -, -, rfl⟩ | ⟨off, n, w, u, rfl, hw, rfl⟩ | ⟨he, -⟩
  · exact absurd rfl hne
  · obtain ⟨rfl, rfl, i, hd, hi⟩ := memWrite_seed_changed hw hne
    exact .inr ⟨w, i, rfl, hd, hi⟩
  · exact .inl he

/-! ## Reset -/

/-- Settles O6, field by field; no byte is written, so each reads as its free value (log 3). -/
theorem resetLeavesRegistersZeroAndBufFree : Obligations.ResetLeavesRegistersZeroAndBufFree :=
  ⟨rfl, rfl, rfl, rfl, rfl, rfl, rfl, rfl, rfl, fun _ => rfl⟩

/-! ## The address map (10_state.md R33, 20_memory.md R51..R53) -/

/-- The offset of a register in the map (10_state.md R33). -/
def regOffset : Reg → Nat
  | .cmd => 0x000
  | .status => 0x004
  | .key => 0x008
  | .kcnt => 0x00C
  | .len => 0x010
  | .seed => 0x014
  | .x => 0x018
  | .result => 0x01C
  | .step => 0x020

theorem regAt_regOffset (r : Reg) : regAt (regOffset r) = some r := by cases r <;> rfl

theorem regOffset_of_regAt {off : Nat} {r : Reg} (h : regAt off = some r) : off = regOffset r := by
  unfold regAt at h
  split at h <;> cases h <;> rfl

/-- A 32-bit access at a register's offset reaches that register. -/
theorem addressedReg_regOffset (r : Reg) : addressedReg (regOffset r) 4 = some r := by cases r <;> rfl

theorem regOffset_lt (r : Reg) : regOffset r < 0x100 := by cases r <;> decide

/-- A 32-bit read of a register answers its value. -/
theorem memRead_regOffset (r : Reg) (s : State) : memRead (regOffset r) 4 s = s.regValue r := by
  rw [memRead_register (regOffset_lt r), addressedReg_regOffset, Option.bind_some]

theorem memWrite_regOffset (r : Reg) (v : Word) (s : State) : memWrite (regOffset r) 4 v s = regWrite r v s := by
  rw [memWrite_register (regOffset_lt r), addressedReg_regOffset, Option.bind_some]

/-- An access below the window reaches a register exactly when it is one of 32 bits at that register's offset. -/
theorem addressedReg_eq_some_iff {off n : Nat} {r : Reg} :
    addressedReg off n = some r ↔ n = 4 ∧ off = regOffset r := by
  constructor
  · intro h
    obtain ⟨hn, -, hr⟩ := addressedReg_eq_some h
    exact ⟨hn, regOffset_of_regAt hr⟩
  · rintro ⟨rfl, rfl⟩
    exact addressedReg_regOffset r

theorem exists_reg {p : Reg → Prop} : (∃ r, p r) ↔
    p .cmd ∨ p .status ∨ p .key ∨ p .kcnt ∨ p .len ∨ p .seed ∨ p .x ∨ p .result ∨ p .step := by
  constructor
  · rintro ⟨r, h⟩
    cases r <;> simp [h]
  · rintro (h | h | h | h | h | h | h | h | h) <;> exact ⟨_, h⟩

/-- The window of `busLegal` is the window of 20_memory.md R53. -/
theorem inWindow_iff {off n : Nat} : busLegal.inWindow off n = true ↔
    0x100 ≤ off ∧ (n = 1 ∨ n = 2 ∨ n = 4) ∧ (off - 0x100) % n = 0 ∧ off - 0x100 + n ≤ Config.nMax := by
  simp only [busLegal.inWindow, List.contains_eq_mem, List.mem_cons, List.not_mem_nil, or_false, Bool.decide_or,
    Bool.and_eq_true, Bool.or_eq_true, decide_eq_true_eq, beq_iff_eq]
  omega

section RegisterSpace
variable {off n : Nat} (h : off < 0x100)
include h

theorem inWindow_of_lt : busLegal.inWindow off n = false := by
  rw [Bool.eq_false_iff, ne_eq, inWindow_iff]
  omega

/-- Every register but CMD can be read. -/
theorem busLegal_read_register : busLegal (.read off n) = true ↔ ∃ r, r ≠ .cmd ∧ addressedReg off n = some r := by
  simp [busLegal, inWindow_of_lt h, addressedReg_eq_some_iff, exists_reg, regOffset, and_or_left]

/-- CMD, LEN and X can be written. -/
theorem busLegal_write_register (v : Word) :
    busLegal (.write off n v) = true ↔ ∃ r, (r = .cmd ∨ r = .len ∨ r = .x) ∧ addressedReg off n = some r := by
  simp [busLegal, inWindow_of_lt h, addressedReg_eq_some_iff, regOffset, and_or_left]

end RegisterSpace

section WindowSpace
variable {off n : Nat} (h : 0x100 ≤ off)
include h

theorem busLegal_read_window : busLegal (.read off n) = busLegal.inWindow off n := by
  simp only [busLegal, List.contains_eq_mem, List.mem_cons, List.not_mem_nil, or_false, Bool.decide_or,
    Bool.or_eq_right_iff_imp, Bool.and_eq_true, beq_iff_eq, Bool.or_eq_true, decide_eq_true_eq, and_imp]
  omega

theorem busLegal_write_window (v : Word) : busLegal (.write off n v) = busLegal.inWindow off n := by
  simp only [busLegal, List.contains_eq_mem, List.mem_cons, List.not_mem_nil, or_false, Bool.decide_or,
    Bool.or_eq_right_iff_imp, Bool.and_eq_true, beq_iff_eq, Bool.or_eq_true, decide_eq_true_eq, and_imp]
  omega

end WindowSpace

/-! ## Bus errors -/

theorem regValue_isSome_iff {r : Reg} {s : State} : (s.regValue r).isSome ↔ r ≠ .cmd := by
  cases r <;> simp [State.regValue]

theorem regWrite_isSome_iff {r : Reg} {v : Word} {s : State} :
    (regWrite r v s).isSome ↔ r = .cmd ∨ r = .len ∨ r = .x := by
  cases r <;> simp [regWrite]

/-- A read has data exactly when the address map permits it, in every state. -/
theorem memRead_isSome_iff (off n : Nat) (s : State) :
    (memRead off n s).isSome ↔ busLegal (.read off n) = true := by
  by_cases h : off < 0x100
  · rw [memRead_register h, busLegal_read_register h]
    cases addressedReg off n <;> simp [regValue_isSome_iff]
  · have h := Nat.le_of_not_lt h
    rw [busLegal_read_window h, inWindow_iff]
    by_cases hc : (n = 1 ∨ n = 2 ∨ n = 4) ∧ (off - 0x100) % n = 0 ∧ off - 0x100 + n ≤ Config.nMax
    · simp [memRead_window h s hc, h, hc]
    · simp [memRead_outside h s hc, hc]

/-- A write is performed exactly when the address map permits it, in every state. -/
theorem memWrite_isSome_iff (off n : Nat) (v : Word) (s : State) :
    (memWrite off n v s).isSome ↔ busLegal (.write off n v) = true := by
  by_cases h : off < 0x100
  · rw [memWrite_register h, busLegal_write_register h]
    cases addressedReg off n <;> simp [regWrite_isSome_iff]
  · have h := Nat.le_of_not_lt h
    rw [busLegal_write_window h, inWindow_iff]
    by_cases hc : (n = 1 ∨ n = 2 ∨ n = 4) ∧ (off - 0x100) % n = 0 ∧ off - 0x100 + n ≤ Config.nMax
    · simp [memWrite_window h v s hc, h, hc]
    · simp [memWrite_outside h v s hc, hc]

theorem runCommand_total (w : Word) (s : State) : ∃ t, runCommand w s = .next t := by
  unfold runCommand
  split
  · exact exec_total _ s
  · exact ⟨_, rfl⟩

theorem regWrite_answers_next {r : Reg} {v : Word} {s : State} {o : Host.Outcome State Fault Refusal}
    (h : regWrite r v s = some o) : ∃ t, o = .next t := by
  cases r with
  | cmd =>
    obtain rfl := Option.some.inj h
    exact runCommand_total v s
  | len | x => exact ⟨_, (Option.some.inj h).symm⟩
  | status | key | kcnt | seed | result | step => cases h

/-- A write that is performed answers a next state: no command faults. -/
theorem memWrite_answers_next {off n : Nat} {v : Word} {s : State} {o : Host.Outcome State Fault Refusal}
    (h : memWrite off n v s = some o) : ∃ t, o = .next t := by
  unfold memWrite at h
  split at h
  · obtain ⟨r, -, hw⟩ := Option.bind_eq_some_iff.mp h
    exact regWrite_answers_next hw
  · obtain ⟨j, -, hw⟩ := Option.map_eq_some_iff.mp h
    exact ⟨_, hw.symm⟩

theorem perform_of_legal {e : HostEvent} (s : State) (h : busLegal e = true) : ∃ t, perform e s = .next t := by
  cases e with
  | read off n =>
    obtain ⟨v, hv⟩ := Option.isSome_iff_exists.mp ((memRead_isSome_iff off n s).mpr h)
    exact ⟨_, by rw [perform, hv]⟩
  | write off n v =>
    obtain ⟨o, ho⟩ := Option.isSome_iff_exists.mp ((memWrite_isSome_iff off n v s).mpr h)
    obtain ⟨t, rfl⟩ := memWrite_answers_next ho
    exact ⟨t.respond .ok, by rw [perform, ho]; rfl⟩
  | reset => exact ⟨_, rfl⟩

theorem perform_of_illegal {e : HostEvent} (s : State) (h : busLegal e = false) :
    perform e s = .fault (.busError e) := by
  cases e with
  | read off n =>
    have hn : memRead off n s = none := by
      rw [← Option.not_isSome_iff_eq_none, memRead_isSome_iff, h]
      decide
    rw [perform, hn]
  | write off n v =>
    have hn : memWrite off n v s = none := by
      rw [← Option.not_isSome_iff_eq_none, memWrite_isSome_iff, h]
      decide
    rw [perform, hn]
  | reset => cases h

/-- Settles O55: a legal event answers a next state and an illegal one the fault, and no event answers both. -/
theorem busErrorsAreExactlyTheIllegalAccesses : Obligations.BusErrorsAreExactlyTheIllegalAccesses := by
  intro e s
  cases h : busLegal e with
  | true =>
    obtain ⟨t, ht⟩ := perform_of_legal s h
    simp [ht]
  | false =>
    have hf := perform_of_illegal s h
    simp [hf]

/-! ## The registers as the host sees them (10_state.md R34) -/

theorem perform_read_register {r : Reg} {s : State} {v : Word} (h : s.regValue r = some v) :
    perform (.read (regOffset r) 4) s = .next (s.respond (.data 4 v)) := by
  rw [perform, memRead_regOffset, h]

theorem perform_write_register {r : Reg} {s t : State} {v : Word} (h : regWrite r v s = some (.next t)) :
    perform (.write (regOffset r) 4 v) s = .next (t.respond .ok) := by
  rw [perform, memWrite_regOffset, h]
  rfl

/-- The value of STEP, TSTEP in bits 10:8 and BSTEP in bits 2:0. -/
theorem stepValue_toNat (t b : BitVec 3) : ((zext32 t <<< 8) ||| zext32 b).toNat = t.toNat * 2 ^ 8 + b.toNat := by
  have ht := t.isLt
  have hb : b.toNat < 2 ^ 8 := by omega
  have hor : 2 ^ 8 * t.toNat ||| b.toNat = 2 ^ 8 * t.toNat + b.toNat := (Nat.two_pow_add_eq_or_of_lt hb _).symm
  simp only [zext32, BitVec.toNat_or, BitVec.toNat_shiftLeft, BitVec.toNat_setWidth, Nat.shiftLeft_eq]
  rw [Nat.mod_eq_of_lt (a := t.toNat) (by omega), Nat.mod_eq_of_lt (a := b.toNat) (by omega),
    Nat.mod_eq_of_lt (by omega), Nat.mul_comm, hor]

/-- Settles O53: a read answers the register's value, a write of LEN or X sets it, and the other writes are not on the
map. -/
theorem registerReadsAndWrites : Obligations.RegisterReadsAndWrites := by
  intro s
  refine ⟨perform_read_register (r := .status) rfl, ⟨s.key.le32, perform_read_register (r := .key) rfl, ?_⟩,
    perform_read_register (r := .kcnt) rfl, perform_read_register (r := .len) rfl,
    perform_read_register (r := .seed) rfl, perform_read_register (r := .x) rfl,
    perform_read_register (r := .result) rfl, ⟨_, perform_read_register (r := .step) rfl, ?_⟩, fun v => ?_⟩
  · exact le32_toNat s.key.k0 s.key.k1 s.key.k2 s.key.k3
  · exact stepValue_toNat s.tstep s.bstep
  · refine ⟨⟨v.extractLsb' 0 16, ?_, perform_write_register (r := .len) rfl⟩,
      perform_write_register (r := .x) rfl, fun off hoff => perform_of_illegal s ?_⟩
    · rw [BitVec.extractLsb'_toNat, Nat.shiftRight_zero]
    · simp only [List.mem_cons, List.not_mem_nil, or_false] at hoff
      rcases hoff with rfl | rfl | rfl | rfl | rfl | rfl <;> rfl

end Sys2Proof.Proofs
end

section
namespace Sys2Proof.Proofs

open Sys2Proof.Machine Sys2Proof.Safety

/-! ## The oldest event (20_memory.md R62) -/

/-- A host write touches neither what is pending nor the responses given: its response comes after it (log 1, log 8). -/
theorem memWrite_port {off n : Nat} {v : Word} {s t : State} (h : memWrite off n v s = some (.next t)) :
    t.pending = s.pending ∧ t.responses = s.responses := by
  rcases memWrite_cases h with ⟨-, -, hrun⟩ | ⟨-, -, rfl⟩ | ⟨-, -, rfl⟩ | ⟨j, -, -, rfl⟩
  · rcases runCommand_cases hrun with ⟨i, -, he⟩ | ⟨r, -, rfl⟩
    · obtain ⟨-, -, hpending, hresponses⟩ := exec_fixed he
      exact ⟨hpending, hresponses⟩
    · exact ⟨rfl, rfl⟩
  all_goals exact ⟨rfl, rfl⟩

/-- An event that completes leaves what is pending behind it, and is answered once, or not at all when it is a reset. -/
theorem perform_port {e : HostEvent} {s t : State} (h : perform e s = .next t) :
    t.pending = s.pending ∧ (e = .reset ∧ t.responses = s.responses ∨
      e ≠ .reset ∧ ∃ r, r ≠ .busError ∧ t.responses = s.responses ++ [r]) := by
  rcases perform_cases h with ⟨off, n, v, rfl, -, rfl⟩ | ⟨off, n, v, u, rfl, hw, rfl⟩ | ⟨rfl, rfl⟩
  · exact ⟨rfl, .inr ⟨by simp, .data n v, by simp, rfl⟩⟩
  · obtain ⟨hpending, hresponses⟩ := memWrite_port hw
    exact ⟨hpending, .inr ⟨by simp, .ok, by simp, by rw [State.respond_responses, hresponses]⟩⟩
  · exact ⟨rfl, .inl ⟨rfl, rfl⟩⟩

/-- Settles O12: the step of a state with something pending performs the oldest event with the rest still pending. -/
theorem stepTakesTheOldestEvent : Obligations.StepTakesTheOldestEvent := by
  refine ⟨step_idle, fun s t e es hp hstep => ?_⟩
  rw [step_pending s e es hp] at hstep
  exact perform_port hstep

/-! ## The buffer window (20_memory.md R53) -/

theorem perform_read_of_memRead {off n : Nat} {v : Word} {s : State} (h : memRead off n s = some v) :
    perform (.read off n) s = .next (s.respond (.data n v)) := by
  rw [perform, h]

theorem perform_write_of_memWrite {off n : Nat} {v : Word} {s t : State} (h : memWrite off n v s = some (.next t)) :
    perform (.write off n v) s = .next (t.respond .ok) := by
  rw [perform, h]
  rfl

theorem memWrite_of_addressedBuf {off n j : Nat} (hoff : 0x100 ≤ off) (hj : addressedBuf off n = some j) (v : Word)
    (s : State) : memWrite off n v s = some (.next (s.storeBytes j (leBytes n v))) := by
  rw [memWrite, if_neg (Nat.not_lt.mpr hoff), hj, Option.map_some]

/-- A byte below the end of a stored bus value is that byte of the value (20_memory.md R55). -/
theorem byte_storeBytes_leBytes {n k : Nat} (s : State) (j : Nat) (v : Word) (hk : k < n) :
    (s.storeBytes j (leBytes n v)).byte (j + k) = v.extractLsb' (8 * k) 8 :=
  s.byte_storeBytes_inside j (j + k) _ _ (Nat.le_add_right j k) (by
    rw [Nat.add_sub_cancel_left, leBytes_getElem? n k v hk])

/-- The value of a byte sequence of the buffer has these bytes and no others (20_memory.md R53). -/
theorem leValue_bytes {n : Nat} (s : State) (j : Nat) (hn : n ≤ 4) :
    (leValue (s.bytes j n)).toNat < 2 ^ (8 * n) ∧
      ∀ k, k < n → (leValue (s.bytes j n)).extractLsb' (8 * k) 8 = s.byte (j + k) := by
  have hlen := s.bytes_length j n
  refine ⟨?_, fun k hk => ?_⟩
  · simpa only [hlen] using leValue_lt (s.bytes j n) (by omega)
  · rw [leValue_extract (s.bytes j n) (by omega) k (by omega)]
    exact Option.some.inj ((List.getElem?_eq_getElem (by omega)).symm.trans (s.bytes_getElem? j n k hk))

/-- Settles O54: inside the window a read answers the value of its bytes and a write stores them; outside it neither is
on the map. -/
theorem windowReadsAndWrites : Obligations.WindowReadsAndWrites := by
  intro off n v s hoff
  refine ⟨fun hc => ?_, fun hc => ?_⟩
  · have hread := perform_read_of_memRead (memRead_window hoff s hc)
    have hwrite := perform_write_of_memWrite (memWrite_window hoff v s hc)
    obtain ⟨hlt, hbytes⟩ := leValue_bytes (n := n) s (off - 0x100) (by omega)
    refine ⟨⟨_, hread, hlt, hbytes⟩, _, hwrite, rfl, fun k => byte_storeBytes_leBytes s _ v, fun j hj => ?_⟩
    exact s.byte_storeBytes_outside _ j (leBytes n v) (by simp only [leBytes_length]; omega)
  · exact ⟨by rw [perform, memRead_outside hoff s hc], by rw [perform, memWrite_outside hoff v s hc]⟩

/-- An 8-bit read answers the one byte at its index, whatever its alignment. -/
theorem memRead_byte {j : Nat} (s : State) (h : j < Config.nMax) :
    memRead (0x100 + j) 1 s = some (leValue [s.byte j]) := by
  rw [memRead_window (Nat.le_add_right _ j) s ⟨.inl rfl, Nat.mod_one _, by omega⟩, Nat.add_sub_cancel_left]
  rfl

/-- A 32-bit read answers `LE32` of the four bytes from its index on. -/
theorem memRead_four_bytes {j : Nat} (s : State) (ha : j % 4 = 0) (h : j + 4 ≤ Config.nMax) :
    memRead (0x100 + j) 4 s = some (le32 (s.byte j) (s.byte (j + 1)) (s.byte (j + 2)) (s.byte (j + 3))) := by
  rw [memRead_window (Nat.le_add_right _ j) s ⟨.inr (.inr rfl), by omega, by omega⟩, Nat.add_sub_cancel_left]
  rfl

theorem leValue_singleton_toNat (b : Byte) : (leValue [b]).toNat = b.toNat := by
  rw [leValue_cons_toNat b [] (by simp), leValue]
  simp

/-- Settles O56: both widths read the same bytes, and the write is the window's of two bytes. -/
theorem mixedWidthAccessSeesOneArray : Obligations.MixedWidthAccessSeesOneArray := by
  intro j s
  refine ⟨fun ha h => ⟨_, _, _, _, _, memRead_byte s (by omega), memRead_byte s (j := j + 1) (by omega),
    memRead_byte s (j := j + 2) (by omega), memRead_byte s (j := j + 3) (by omega), memRead_four_bytes s ha h, ?_⟩,
    fun v ha h => ?_⟩
  · simp only [le32_toNat, leValue_singleton_toNat]
  · obtain ⟨-, t, ht, -, hin, hout⟩ := (windowReadsAndWrites (0x100 + j) 2 v s (by omega)).1 (by omega)
    simp only [Nat.add_sub_cancel_left] at hin hout
    exact ⟨t, ht, hin 0 (by omega), hin 1 (by omega), fun i h0 h1 => hout i (by omega)⟩

/-! ## Repeated transactions (20_memory.md R58) -/

/-- What a read answers does not depend on the responses given before it. -/
theorem memRead_respond (off n : Nat) (s : State) (r : Response) : memRead off n (s.respond r) = memRead off n s := rfl

/-- The same bytes stored twice over are stored once; in the canonical form this is equality of the data (log 4). -/
theorem storeBytes_storeBytes_self {s : State} {j : Nat} {bs : List Byte} (hwf : s.buf.wf = true)
    (h : j + bs.length ≤ Config.nMax) : (s.storeBytes j bs).storeBytes j bs = s.storeBytes j bs :=
  congrArg s.setBuf (Memory.storeAll_storeAll s.buf j bs bs rfl hwf h)

theorem storeBytes_respond (s : State) (r : Response) (j : Nat) (bs : List Byte) :
    (s.respond r).storeBytes j bs = (s.storeBytes j bs).respond r := rfl

/-- A write to any offset but CMD, performed again after a response, finds what it writes already there. -/
theorem memWrite_again {off n : Nat} {v : Word} {s t : State} (r : Response) (hoff : off ≠ 0x000)
    (hwf : s.buf.wf = true) (h : memWrite off n v s = some (.next t)) :
    memWrite off n v (t.respond r) = some (.next (t.respond r)) := by
  rcases memWrite_cases h with ⟨rfl, -, -⟩ | ⟨rfl, rfl, rfl⟩ | ⟨rfl, rfl, rfl⟩ | ⟨j, hj, hwin, rfl⟩
  · exact absurd rfl hoff
  · exact memWrite_regOffset .len v _
  · exact memWrite_regOffset .x v _
  · obtain ⟨-, -, -, hend⟩ := addressedBuf_eq_some hj
    have hself := storeBytes_storeBytes_self (bs := leBytes n v) hwf (by rwa [leBytes_length])
    rw [memWrite_of_addressedBuf hwin hj, storeBytes_respond, hself]

/-- Settles O57: a read leaves its answer where it was, and a write other than to CMD writes the same again. -/
theorem readsHaveNoSideEffects : Obligations.ReadsHaveNoSideEffects := by
  refine ⟨fun off n s t h => ?_, fun off n v s t hoff hwf h => ?_⟩
  · rcases perform_cases h with ⟨_, _, v, he, hv, rfl⟩ | ⟨_, _, _, _, he, -⟩ | ⟨he, -⟩ <;> cases he
    exact ⟨v, rfl, perform_read_of_memRead ((memRead_respond off n s _).trans hv)⟩
  · rcases perform_cases h with ⟨_, _, _, he, -⟩ | ⟨_, _, _, u, he, hw, rfl⟩ | ⟨he, -⟩ <;> cases he
    exact perform_write_of_memWrite (memWrite_again .ok hoff hwf hw)

/-! ## Host programs (70_reset_and_hazards.md R260) -/

theorem runProgram_cons_of_next {e : HostEvent} {s t : State} (es : List HostEvent) (h : perform e s = .next t) :
    runProgram (e :: es) s = runProgram es t := by
  rw [runProgram, h]

/-- Settles O58: the illegal event is a fault in every state, and a fault ends the program. -/
theorem aBusErrorChangesNoState : Obligations.ABusErrorChangesNoState := by
  intro e es s h
  rw [runProgram, perform_of_illegal s h]

/-! ### No event looks at what is pending behind it

A program in `pending` runs as the program itself does because each event answers the same whatever is still pending. -/

theorem commandEffect_setPending (i : Instr) (s : State) (es : List HostEvent) :
    commandEffect i (s.setPending es) = (commandEffect i s).setPending es := by
  cases i <;> rfl

theorem requireKey_setPending {s : State} {es : List HostEvent} {body body' : Host.Outcome State Fault Refusal}
    (h : body' = andThen body fun t => .next (t.setPending es)) :
    requireKey (s.setPending es) body' = andThen (requireKey s body) fun t => .next (t.setPending es) := by
  by_cases hk : s.kcnt = 4#4
  · rw [requireKey_of_eq _ hk, requireKey_of_eq (s := s.setPending es) _ hk, h]
  · rw [requireKey_of_ne _ hk, requireKey_of_ne (s := s.setPending es) _ hk]
    rfl

/-- The length check and the effect of a buffer command do not look at what is pending. -/
theorem requireLen_commandEffect_setPending (i : Instr) (s : State) (es : List HostEvent) :
    requireLen (s.setPending es) (complete (commandEffect i (s.setPending es))) =
      andThen (requireLen s (complete (commandEffect i s))) fun t => .next (t.setPending es) :=
  requireLen_stage_commutes (f := fun s => s.setPending es) (fun _ => rfl)
    (fun s => commandEffect_setPending i s es) (fun _ _ => rfl) s

theorem exec_setPending (i : Instr) (s : State) (es : List HostEvent) :
    exec i (s.setPending es) = andThen (exec i s) fun t => .next (t.setPending es) := by
  cases i with
  | keypush imm8 =>
    rw [exec_keypush_eq, exec_keypush_eq]
    rfl
  | seed => exact requireKey_setPending rfl
  | ksxor => exact requireLen_commandEffect_setPending .ksxor s es
  | blkfwd => exact requireLen_commandEffect_setPending .blkfwd s es
  | blkinv => exact requireLen_commandEffect_setPending .blkinv s es
  | xfenc => exact requireLen_commandEffect_setPending .xfenc s es
  | xfdec => exact requireLen_commandEffect_setPending .xfdec s es
  | encode => exact requireKey_setPending (requireLen_commandEffect_setPending .encode s es)
  | decode => exact requireKey_setPending (requireLen_commandEffect_setPending .decode s es)
  | nop | keyclr | stepclr | next | ksbyte | bsadv | tsadv | rot13 | brotl | brotr | xbenc | xbdec => rfl

theorem runCommand_setPending {w : Word} {s t : State} (es : List HostEvent) (h : runCommand w s = .next t) :
    runCommand w (s.setPending es) = .next (t.setPending es) := by
  rcases runCommand_cases h with ⟨i, hd, he⟩ | ⟨r, hd, rfl⟩ <;> rw [runCommand, hd]
  · exact (exec_setPending i s es).trans (by rw [he]; rfl)
  · rfl

theorem memWrite_setPending {off n : Nat} {v : Word} {s t : State} (es : List HostEvent)
    (h : memWrite off n v s = some (.next t)) :
    memWrite off n v (s.setPending es) = some (.next (t.setPending es)) := by
  rcases memWrite_cases h with ⟨rfl, rfl, hrun⟩ | ⟨rfl, rfl, rfl⟩ | ⟨rfl, rfl, rfl⟩ | ⟨j, hj, hwin, rfl⟩
  · exact (memWrite_regOffset .cmd v _).trans (congrArg some (runCommand_setPending es hrun))
  · exact memWrite_regOffset .len v _
  · exact memWrite_regOffset .x v _
  · exact memWrite_of_addressedBuf hwin hj v _

theorem perform_setPending {e : HostEvent} {s t : State} (es : List HostEvent) (h : perform e s = .next t) :
    perform e (s.setPending es) = .next (t.setPending es) := by
  rcases perform_cases h with ⟨off, n, v, rfl, hv, rfl⟩ | ⟨off, n, v, u, rfl, hw, rfl⟩ | ⟨rfl, rfl⟩
  · exact perform_read_of_memRead (s := s.setPending es) hv
  · exact perform_write_of_memWrite (memWrite_setPending es hw)
  · rfl

/-! ### Stepping -/

theorem core_run_succ {s t : State} (k : Nat) (h : step s = .next t) :
    Host.Core.run core (k + 1) s = Host.Core.run core k t := by
  have hstep : core.step s = .next t := h
  simp only [Host.Core.run, hstep]

/-- The first step of a loaded program performs its first event and leaves the rest loaded. -/
theorem step_load {e : HostEvent} {s t : State} (es : List HostEvent) (h : perform e s = .next t) :
    step (s.load (e :: es)) = .next (t.load es) :=
  (step_pending _ e es rfl).trans (perform_setPending (s := s) es h)

/-- Settles O59, by induction on the program: each event answers a next state, from which the rest runs. -/
theorem steppingRunsTheProgram : Obligations.SteppingRunsTheProgram := by
  intro p
  induction p with
  | nil => exact fun s _ => ⟨s.load [], rfl, rfl, rfl⟩
  | cons e es ih =>
    intro s h
    obtain ⟨he, hes⟩ := Bool.and_eq_true_iff.mp h
    obtain ⟨s', hs'⟩ := perform_of_legal s he
    obtain ⟨t, hrun, hpending, hobs⟩ := ih s' hes
    exact ⟨t, (core_run_succ es.length (step_load es hs')).trans hrun, hpending,
      (runProgram_cons_of_next es hs').trans hobs⟩

end Sys2Proof.Proofs
end

section
namespace Sys2Proof.Proofs

open Sys2Proof.Machine Sys2Proof.Safety

/-! ## The commands by mnemonic

A row of the opcode table (30_encoding.md R85) is a mnemonic: its format says which of the operands IMM8, K and P the
command has, and the row's opcode and format alone say which words are its words. The facts below are stated per
mnemonic, so that the decoder, the encoder, the assembler and the table are compared row by row. -/

/-- The instruction of a mnemonic with these operands; it takes the ones its format has (30_encoding.md R82). -/
def instrOf (m : Mnemonic) (imm8 : Byte) (k : BitVec 3) (p : Bool) : Instr :=
  match m with
  | .NOP => .nop
  | .KEYCLR => .keyclr
  | .KEYPUSH => .keypush imm8
  | .SEED => .seed
  | .STEPCLR => .stepclr
  | .NEXT => .next
  | .KSBYTE => .ksbyte
  | .KSXOR => .ksxor
  | .BSADV => .bsadv
  | .BLKFWD => .blkfwd
  | .BLKINV => .blkinv
  | .TSADV => .tsadv
  | .ROT13 => .rot13 imm8
  | .BROTL => .brotl imm8 k
  | .BROTR => .brotr imm8 k
  | .XBENC => .xbenc imm8 k p
  | .XBDEC => .xbdec imm8 k p
  | .XFENC => .xfenc
  | .XFDEC => .xfdec
  | .ENCODE => .encode
  | .DECODE => .decode

/-- The opcode of a mnemonic, which no operand changes (`opcodeOf_instrOf`). -/
def mnemonicOpcode (m : Mnemonic) : Byte := opcodeOf (instrOf m 0#8 0#3 false)

/-- The word of a format: the fields the format does not have are zero (30_encoding.md R82). -/
def formatWord (f : Format) (opc imm8 : Byte) (k : BitVec 3) (p : Bool) : Word :=
  match f with
  | .N => commandWord opc false 0#3 0#8
  | .I => commandWord opc false 0#3 imm8
  | .K => commandWord opc false k imm8
  | .KP => commandWord opc p k imm8

/-- The operands of a format, as they are written (30_encoding.md R90). -/
def formatOperands (f : Format) (imm8 : Byte) (k : BitVec 3) (p : Bool) : List Nat :=
  match f with
  | .N => []
  | .I => [imm8.toNat]
  | .K => [imm8.toNat, k.toNat]
  | .KP => [imm8.toNat, k.toNat, p.toNat]

section Mnemonics
variable (m : Mnemonic) (imm8 : Byte) (k : BitVec 3) (p : Bool)

theorem opcodeOf_instrOf : opcodeOf (instrOf m imm8 k p) = mnemonicOpcode m := by cases m <;> rfl

theorem encode_instrOf : encode (instrOf m imm8 k p) = formatWord m.format (mnemonicOpcode m) imm8 k p := by
  cases m <;> rfl

theorem toCommand_instrOf : (instrOf m imm8 k p).toCommand = ⟨m, formatOperands m.format imm8 k p⟩ := by
  cases m <;> rfl

end Mnemonics

/-- Every instruction is that of its mnemonic with some operands. -/
theorem exists_instrOf (i : Instr) : ∃ m imm8 k p, instrOf m imm8 k p = i := by
  refine ⟨i.toCommand.mnemonic, ?_⟩
  cases i with
  | keypush imm8 | rot13 imm8 => exact ⟨imm8, 0#3, false, rfl⟩
  | brotl imm8 k | brotr imm8 k => exact ⟨imm8, k, false, rfl⟩
  | xbenc imm8 k p | xbdec imm8 k p => exact ⟨imm8, k, p, rfl⟩
  | _ => exact ⟨0#8, 0#3, false, rfl⟩

/-! ## The words of a format (30_encoding.md R81, R82) -/

theorem opcField_formatWord (f : Format) (opc imm8 : Byte) (k : BitVec 3) (p : Bool) :
    opcField (formatWord f opc imm8 k p) = opc := by
  cases f <;> exact opcField_commandWord _ _ _ _

theorem reservedZero_iff {f : Format} {w : Word} :
    reservedZero f w = true ↔ w.toNat % 2 ^ 24 / 2 ^ f.reservedFrom = 0 := decide_eq_true_iff

theorem reservedZero_formatWord (f : Format) (opc imm8 : Byte) (k : BitVec 3) (p : Bool) :
    reservedZero f (formatWord f opc imm8 k p) = true := by
  have hb := imm8.isLt
  have hk := k.isLt
  have hp := Bool.toNat_le p
  rw [reservedZero_iff]
  cases f <;> simp only [formatWord, commandWord_toNat, Format.reservedFrom, Bool.toNat_false, BitVec.toNat_ofNat]
    <;> omega

/-- A word whose reserved bits are zero is the word of its own fields: the format drops none. -/
theorem formatWord_fields {f : Format} {w : Word} (h : reservedZero f w = true) :
    formatWord f (opcField w) (imm8Field w) (kField w) (pField w) = w := by
  rw [reservedZero_iff] at h
  apply BitVec.eq_of_toNat_eq
  cases f <;> simp only [formatWord, commandWord_toNat, opcField_toNat, imm8Field_toNat, kField_toNat, pField_toNat,
    Format.reservedFrom, Bool.toNat_false, BitVec.toNat_ofNat] at h ⊢ <;> omega

/-! ## The decoder, row by row (30_encoding.md R85, R87) -/

/-- On an assigned opcode the decoder checks the reserved bits and reads the operands from their fields. -/
theorem decode_of_opcode {m : Mnemonic} {w : Word} (h : opcField w = mnemonicOpcode m) :
    decode w = checked m.format w (instrOf m (imm8Field w) (kField w) (pField w)) := by
  unfold decode
  rw [h]
  cases m <;> rfl

theorem checked_of_reservedZero {f : Format} {w : Word} (i : Instr) (h : reservedZero f w = true) :
    checked f w i = .ok i := if_pos h

/-- A word that decodes carries the opcode of its instruction. -/
theorem opcField_of_decode {w : Word} {i : Instr} (h : decode w = .ok i) : opcField w = opcodeOf i := by
  apply BitVec.eq_of_toNat_eq
  unfold decode at h
  split at h
  case h_22 => cases h
  all_goals
    obtain ⟨rfl, -⟩ := checked_eq_ok h
    assumption

/-- The inversion of the decoder: the row of the word, its reserved bits zero, and its operand fields. -/
theorem decode_eq_ok {w : Word} {i : Instr} (h : decode w = .ok i) :
    ∃ m, opcField w = mnemonicOpcode m ∧ reservedZero m.format w = true ∧
      i = instrOf m (imm8Field w) (kField w) (pField w) := by
  obtain ⟨m, imm8, k, p, rfl⟩ := exists_instrOf i
  have hop := (opcField_of_decode h).trans (opcodeOf_instrOf m imm8 k p)
  rw [decode_of_opcode hop] at h
  obtain ⟨hi, hres⟩ := checked_eq_ok h
  exact ⟨m, hop, reservedZero_iff.mpr hres, hi.symm⟩

/-- The operand fields of an instruction's word are its operands. -/
theorem instrOf_fields_formatWord (m : Mnemonic) (opc imm8 : Byte) (k : BitVec 3) (p : Bool) :
    instrOf m (imm8Field (formatWord m.format opc imm8 k p)) (kField (formatWord m.format opc imm8 k p))
      (pField (formatWord m.format opc imm8 k p)) = instrOf m imm8 k p := by
  cases m <;> simp [instrOf, formatWord, Mnemonic.format]

/-- The decoder gives back the instruction of an encoded word. -/
theorem decode_encode (i : Instr) : decode (encode i) = .ok i := by
  obtain ⟨m, imm8, k, p, rfl⟩ := exists_instrOf i
  rw [encode_instrOf, decode_of_opcode (opcField_formatWord _ _ _ _ _), instrOf_fields_formatWord]
  exact checked_of_reservedZero _ (reservedZero_formatWord _ _ _ _ _)

/-- Settles O2: the word's row and operand fields are those of the instruction, and the other bits are zero. -/
theorem encodeOfDecodeIsTheWord : Obligations.EncodeOfDecodeIsTheWord := by
  intro w i h
  obtain ⟨m, hop, hres, rfl⟩ := decode_eq_ok h
  rw [encode_instrOf, ← hop, formatWord_fields hres]

/-! ## Written commands (30_encoding.md R90) -/

/-- A written command is well formed exactly when its operands are those of its format, each in its range. -/
theorem command_wf_iff {c : Command} :
    c.wf = true ↔ ∃ imm8 k p, c.operands = formatOperands c.mnemonic.format imm8 k p := by
  constructor
  · intro h
    unfold Command.wf at h
    split at h
    case h_1 hf ho => exact ⟨0#8, 0#3, false, by rw [ho, hf]; rfl⟩
    case h_2 imm8 hf ho =>
      have hb := of_decide_eq_true h
      exact ⟨BitVec.ofNatLT imm8 hb, 0#3, false, by rw [ho, hf]; rfl⟩
    case h_3 imm8 k hf ho =>
      obtain ⟨hb, hk⟩ : imm8 < 256 ∧ k < 8 := by simpa using h
      exact ⟨BitVec.ofNatLT imm8 hb, BitVec.ofNatLT k hk, false, by rw [ho, hf]; rfl⟩
    case h_4 imm8 k p hf ho =>
      obtain ⟨⟨hb, hk⟩, hp⟩ : (imm8 < 256 ∧ k < 8) ∧ p < 2 := by simpa using h
      obtain ⟨q, rfl⟩ : ∃ q : Bool, q.toNat = p := ⟨p.testBit 0, by interval_cases p <;> rfl⟩
      exact ⟨BitVec.ofNatLT imm8 hb, BitVec.ofNatLT k hk, q, by rw [ho, hf]; rfl⟩
    all_goals cases h
  · rintro ⟨imm8, k, p, h⟩
    have hb := imm8.isLt
    have hk := k.isLt
    have hp := p.toNat_lt
    unfold Command.wf
    rw [h]
    cases c.mnemonic.format <;> simp [formatOperands] <;> omega

theorem toCommand_wf (i : Instr) : i.toCommand.wf = true := by
  obtain ⟨m, imm8, k, p, rfl⟩ := exists_instrOf i
  exact command_wf_iff.mpr ⟨imm8, k, p, by rw [toCommand_instrOf]⟩

/-- The assembler reads back the instruction that was written. -/
theorem toInstr_toCommand (i : Instr) : i.toCommand.toInstr = some i := by
  have hp (p : Bool) : (p.toNat == 1) = p := by cases p <;> rfl
  rw [Command.toInstr, if_pos (toCommand_wf i)]
  cases i <;> simp [Instr.toCommand, hp]

theorem assemble_toCommand (i : Instr) : i.toCommand.assemble = some (encode i) := by
  rw [Command.assemble, toInstr_toCommand, Option.map_some]

/-- Settles O1: what can be written is well formed, and the decoder reads every field that the encoder wrote. -/
theorem decodeOfEncodeIsTheInstruction : Obligations.DecodeOfEncodeIsTheInstruction :=
  fun i => ⟨toCommand_wf i, decode_encode i⟩

/-- Settles O5: a well-formed written command is how the instruction of its mnemonic and operands is written. -/
theorem assemblyRoundTrip : Obligations.AssemblyRoundTrip := by
  refine ⟨assemble_toCommand, fun c hwf => ?_, fun c hwf => ?_⟩
  · obtain ⟨imm8, k, p, hop⟩ := command_wf_iff.mp hwf
    have hc : (instrOf c.mnemonic imm8 k p).toCommand = c := by rw [toCommand_instrOf, ← hop]
    have hread := toInstr_toCommand (instrOf c.mnemonic imm8 k p)
    rw [hc] at hread
    exact ⟨_, hread, hc⟩
  · simp [Command.assemble, Command.toInstr, hwf]

/-! ## The match and mask of a row (30_encoding.md R85, R87) -/

/-- The row of a mnemonic: its opcode above the operand fields, and a mask of all but those. -/
def opcodeRow (m : Mnemonic) : Word × Word :=
  (mnemonicOpcode m ++ 0#24, BitVec.allOnes 32 <<< m.format.reservedFrom)

theorem opcodeRows_eq : opcodeRows = allMnemonics.map opcodeRow := by decide

theorem mem_allMnemonics (m : Mnemonic) : m ∈ allMnemonics := by cases m <;> decide

theorem mem_opcodeRows_iff {row : Word × Word} : row ∈ opcodeRows ↔ ∃ m, opcodeRow m = row := by
  simp [opcodeRows_eq, mem_allMnemonics]

/-- Masking away the low `n` bits rounds down to a multiple of `2 ^ n`. -/
theorem and_allOnes_shiftLeft_toNat (w : Word) (n : Nat) :
    (w &&& (BitVec.allOnes 32 <<< n)).toNat = w.toNat / 2 ^ n * 2 ^ n := by
  have hshift : w &&& (BitVec.allOnes 32 <<< n) = (w >>> n) <<< n := by
    ext i hi
    simp only [BitVec.getElem_and, BitVec.getElem_shiftLeft, BitVec.getElem_allOnes, BitVec.getElem_ushiftRight]
    by_cases hin : i < n
    · simp [hin]
    · simp [hin, Nat.add_sub_cancel' (Nat.le_of_not_lt hin), BitVec.getLsbD_eq_getElem hi]
  have hle := Nat.div_mul_le_self w.toNat (2 ^ n)
  rw [hshift, BitVec.toNat_shiftLeft, BitVec.toNat_ushiftRight, Nat.shiftLeft_eq, Nat.shiftRight_eq_div_pow]
  exact Nat.mod_eq_of_lt (by omega)

/-- A row matches the words that carry its opcode and have its reserved bits zero. -/
theorem rowMatches_opcodeRow_iff {w : Word} {m : Mnemonic} :
    rowMatches w (opcodeRow m) ↔ opcField w = mnemonicOpcode m ∧ reservedZero m.format w = true := by
  have hop := (mnemonicOpcode m).isLt
  rw [rowMatches, opcodeRow, reservedZero_iff, ← BitVec.toNat_inj, ← BitVec.toNat_inj, and_allOnes_shiftLeft_toNat,
    opcField_toNat, BitVec.toNat_append]
  cases m.format <;> simp [Format.reservedFrom, Nat.shiftLeft_eq] <;> omega

theorem decodes_iff_exists_row (w : Word) : (∃ i, decode w = .ok i) ↔ ∃ row ∈ opcodeRows, rowMatches w row := by
  constructor
  · rintro ⟨i, h⟩
    obtain ⟨m, hop, hres, -⟩ := decode_eq_ok h
    exact ⟨opcodeRow m, mem_opcodeRows_iff.mpr ⟨m, rfl⟩, rowMatches_opcodeRow_iff.mpr ⟨hop, hres⟩⟩
  · rintro ⟨row, hrow, h⟩
    obtain ⟨m, rfl⟩ := mem_opcodeRows_iff.mp hrow
    obtain ⟨hop, hres⟩ := rowMatches_opcodeRow_iff.mp h
    exact ⟨_, (decode_of_opcode hop).trans (checked_of_reservedZero _ hres)⟩

/-- No two mnemonics share an opcode. -/
theorem mnemonicOpcode_injective : Function.Injective mnemonicOpcode := by
  intro m n h
  have hnodup : (allMnemonics.map mnemonicOpcode).Nodup := by decide
  exact List.inj_on_of_nodup_map hnodup (mem_allMnemonics m) (mem_allMnemonics n) h

/-- Settles O3: a word that a row matches carries the row's opcode, so it decodes and no other row matches it. -/
theorem legalWordsAreTheRowsOfTheTable : Obligations.LegalWordsAreTheRowsOfTheTable := by
  intro w
  refine ⟨decodes_iff_exists_row w, fun row hrow row' hrow' h h' => ?_, fun s hnone => ?_⟩
  · obtain ⟨m, rfl⟩ := mem_opcodeRows_iff.mp hrow
    obtain ⟨m', rfl⟩ := mem_opcodeRows_iff.mp hrow'
    have hop := (rowMatches_opcodeRow_iff.mp h).1
    have hop' := (rowMatches_opcodeRow_iff.mp h').1
    exact congrArg opcodeRow (mnemonicOpcode_injective (hop.symm.trans hop'))
  · cases hd : decode w with
    | error r =>
      rw [runCommand, hd]
      rfl
    | ok i =>
      obtain ⟨row, hrow, h⟩ := (decodes_iff_exists_row w).mp ⟨i, hd⟩
      exact absurd h (hnone row hrow)

/-- Settles O4: each word is, bit by bit, the word of its command. -/
theorem writtenOutWordsDecode : Obligations.WrittenOutWordsDecode :=
  ⟨decode_encode .nop, decode_encode (.keypush 0x41#8), decode_encode .next, decode_encode .ksxor,
    decode_encode .blkfwd, decode_encode (.brotl 0x81#8 3#3), decode_encode (.xbenc 0x41#8 5#3 true),
    decode_encode .decode⟩

/-! ## A write to CMD (30_encoding.md R80) -/

theorem respondOk_eq_andThen (o : Host.Outcome State Fault Refusal) :
    respondOk o = andThen o fun t => .next (t.respond .ok) := by
  cases o <;> rfl

/-- The write of a command word runs it and then responds OK. -/
theorem perform_commandWrite (w : Word) (s : State) : perform (commandWrite w) s = respondOk (runCommand w s) := rfl

/-- Settles O8: the oldest event is the write of a word that decodes. -/
theorem stepRunsTheDecodedCommand : Obligations.StepRunsTheDecodedCommand := by
  intro s es w i hp hd _
  calc step s
    _ = perform (commandWrite w) (s.setPending es) := step_pending s _ es hp
    _ = respondOk (runCommand w (s.setPending es)) := perform_commandWrite w _
    _ = respondOk (exec i (s.setPending es)) := by rw [runCommand, hd]
    _ = _ := respondOk_eq_andThen _

/-! ## SETKEY (30_encoding.md R92) -/

/-- The word of KEYPUSH, its byte in bits 7:0. -/
theorem encode_keypush (imm8 : Byte) : encode (.keypush imm8) = 0x02000000#32 ||| imm8.setWidth 32 := by
  have hb : imm8.toNat < 2 ^ 25 := by omega
  apply BitVec.eq_of_toNat_eq
  calc (encode (.keypush imm8)).toNat
    _ = 2 ^ 25 * 1 + imm8.toNat := by simp [encode, opcodeOf, commandWord_toNat]
    _ = 2 ^ 25 * 1 ||| imm8.toNat := Nat.two_pow_add_eq_or_of_lt hb 1
    _ = (0x02000000#32 ||| imm8.setWidth 32).toNat := by
      rw [BitVec.toNat_or, BitVec.toNat_setWidth_of_le (by decide)]
      rfl

theorem asmCommand_toCommand (i : Instr) :
    asmCommand i.toCommand.mnemonic i.toCommand.operands = some [commandWrite (encode i)] := by
  rw [asmCommand, assemble_toCommand, Option.map_some]

theorem asmCommand_keypush (imm8 : Byte) :
    asmCommand .KEYPUSH [imm8.toNat] = some [.write 0x000 4 (0x02000000#32 ||| imm8.setWidth 32)] := by
  rw [← encode_keypush]
  exact asmCommand_toCommand (.keypush imm8)

theorem asmCommand_keyclr : asmCommand .KEYCLR [] = some [.write 0x000 4 0x01000000#32] :=
  asmCommand_toCommand .keyclr

/-- A state between the commands of SETKEY: the key bytes pushed so far and their count. -/
def keyLoaded (s : State) (key : Key) (n : BitVec 4) : State := ((s.setKey key).setKcnt n).setErrcode errOk

theorem exec_keyclr_keyLoaded (s : State) : exec .keyclr s = .next (keyLoaded s ⟨0#8, 0#8, 0#8, 0#8⟩ 0#4) := rfl

theorem exec_keypush_keyLoaded (imm8 : Byte) (s : State) (key : Key) (n : BitVec 4) :
    exec (.keypush imm8) (keyLoaded s key n) = .next (keyLoaded s (key.set n imm8) (kcntSucc n)) :=
  exec_keypush_eq imm8 _

/-- Settles O21: KEYCLR makes KCNT 0, so the four bytes go to KEY[0] to KEY[3] in turn. -/
theorem setkeyLoadsTheWholePrefix : Obligations.SetkeyLoadsTheWholePrefix := by
  intro b0 b1 b2 b3 s
  constructor
  · simp only [AsmLine.expand, asmCommand_keyclr, asmCommand_keypush]
    rfl
  · have h0 : kcntSucc 0#4 = 1#4 := by decide
    have h1 : kcntSucc 1#4 = 2#4 := by decide
    have h2 : kcntSucc 2#4 = 3#4 := by decide
    have h3 : kcntSucc 3#4 = 4#4 := by decide
    simp only [exec_keyclr_keyLoaded, andThen, exec_keypush_keyLoaded, h0, h1, h2, h3]
    rfl

end Sys2Proof.Proofs
end

section
namespace Sys2Proof.Proofs

open Sys2Proof.Machine Sys2Proof.Safety

/-! ## The control and key commands (40_control_key.md) -/

/-- Settles O16: NOP is the opcode 0x00 with every field zero, and its effect is the state itself. -/
theorem nopSetsErrcodeOkOnly : Obligations.NopSetsErrcodeOkOnly :=
  ⟨decode_encode .nop, exec_nop⟩

/-- Settles O17: after KEYCLR no key byte is loaded. -/
theorem keyclrDiscardsThePrefix : Obligations.KeyclrDiscardsThePrefix :=
  ⟨decode_encode .keyclr, exec_keyclr_keyLoaded⟩

/-- Settles O20: the effect of STEPCLR is the two counter updates. -/
theorem stepclrZeroesBothCounters : Obligations.StepclrZeroesBothCounters :=
  ⟨decode_encode .stepclr, exec_stepclr⟩

/-- KEYPUSH at a known count, as a key and a count put into the state it started from (R102). -/
theorem exec_keypush_of_kcnt {imm8 : Byte} {s : State} {n : BitVec 4} (h : s.kcnt = n) :
    exec (.keypush imm8) s = .next (keyLoaded s (s.key.set n imm8) (kcntSucc n)) := by
  subst h
  exact exec_keypush_eq imm8 s

/-- Below its ceiling KCNT counts by one (R102). -/
theorem kcntSucc_of_lt {n : BitVec 4} (h : n.toNat < 15) : kcntSucc n = n + 1#4 := by
  have hfits : n.toNat + 1 < 2 ^ 4 := by omega
  apply BitVec.eq_of_toNat_eq
  rw [kcntSucc_toNat, BitVec.toNat_add_of_lt hfits, Nat.min_eq_left (by omega)]
  rfl

/-- From the fourth byte on, KEYPUSH only counts (R102). -/
theorem exec_keypush_of_four_le {imm8 : Byte} {s : State} (h : 4 ≤ s.kcnt.toNat) :
    exec (.keypush imm8) s = .next (keyLoaded s s.key (kcntSucc s.kcnt)) := by
  rw [exec_keypush_of_kcnt rfl, key_set_of_four_le _ _ _ h]

/-- Settles O18: below four the count selects the key byte; from four on only the count changes, up to its ceiling. -/
theorem keypushAppendsOrOnlyCounts : Obligations.KeypushAppendsOrOnlyCounts := by
  constructor
  · intro imm8
    rw [← encode_keypush]
    exact decode_encode (.keypush imm8)
  · intro imm8 s
    refine ⟨exec_keypush_of_kcnt, exec_keypush_of_kcnt, exec_keypush_of_kcnt, exec_keypush_of_kcnt, ?_, ?_⟩
    · intro hfour hlt
      rw [exec_keypush_of_four_le hfour, kcntSucc_of_lt hlt]
      rfl
    · intro hmax
      rw [exec_keypush_of_four_le (by simp [hmax]), hmax]
      rfl

/-- The seed as a number is the little-endian value of the key bytes (R103). -/
theorem seedOf_toNat (b0 b1 b2 b3 : Byte) : (seedOf b0 b1 b2 b3).toNat =
    b0.toNat + b1.toNat * 2 ^ 8 + b2.toNat * 2 ^ 16 + b3.toNat * 2 ^ 24 := le32_toNat b0 b1 b2 b3

/-- The sign of the seed is the top bit of the last key byte (R103). -/
theorem seedOf_toInt_neg_iff (b0 b1 b2 b3 : Byte) : (seedOf b0 b1 b2 b3).toInt < 0 ↔ 0x80 ≤ b3.toNat := by
  rw [BitVec.toInt_neg_iff, seedOf_toNat]
  omega

/-- Settles O19: the key check decides between the load of the seed and INVALID_KEY_LENGTH. -/
theorem seedDerivesAndLoads : Obligations.SeedDerivesAndLoads := by
  refine ⟨decode_encode .seed, fun b0 b1 b2 b3 => ⟨seedOf_toNat b0 b1 b2 b3, seedOf_toInt_neg_iff b0 b1 b2 b3⟩,
    fun s => ⟨fun hkey => ?_, fun hkey => requireKey_of_ne _ hkey⟩⟩
  have hexec : exec .seed s = .next ((loadSeed s).setErrcode errOk) := requireKey_of_eq _ hkey
  exact ⟨seedOf s.key.k0 s.key.k1 s.key.k2 s.key.k3, seedOf_toNat _ _ _ _, hexec⟩

end Sys2Proof.Proofs
end

section
namespace Sys2Proof.Proofs

open Sys2Proof.Machine Sys2Proof.Safety

/-! ## Words that a rotation fixes (41_prng.md R124, R125) -/

@[simp] theorem mul32_zero_left (b : Word) : mul32 0#32 b = 0#32 := by simp [mul32_eq_mul]

@[simp] theorem rotl32_zero (k : Nat) : rotl32 0#32 k = 0#32 := by simp [rotl32]

@[simp] theorem rotr32_zero (k : Nat) : rotr32 0#32 k = 0#32 := by simp [rotr32]

/-- Every bit of a rotation of the all-ones word is one of its bits. -/
theorem rotl32_allOnes {k : Nat} (h : k < 32) : rotl32 (BitVec.allOnes 32) k = BitVec.allOnes 32 := by
  rw [rotl32_eq_rotateLeft _ _ h]
  ext i hi
  simp only [BitVec.getElem_rotateLeft, BitVec.getElem_allOnes, dite_eq_ite, ite_self]

theorem rotr32_allOnes {k : Nat} (h : k < 32) : rotr32 (BitVec.allOnes 32) k = BitVec.allOnes 32 := by
  rw [rotr32_eq_rotateRight _ _ h]
  ext i hi
  simp only [BitVec.getElem_rotateRight, BitVec.getElem_allOnes, dite_eq_ite, ite_self]

/-! ## The generator (41_prng.md R120, R121) -/

/-- The generator answers 0 as soon as its first XOR does: the later products, rotations and XORs keep 0. -/
theorem genNext_eq_zero {x : Word} (h : mul32 x genC1 ^^^ rotl32 (mul32 x genC1) 13 = 0#32) : genNext x = 0#32 := by
  simp [genNext, h]

theorem genNext_zero : genNext 0#32 = 0#32 := genNext_eq_zero (by simp)

theorem genNext_eq_zero_of_mul_eq_allOnes {x : Word} (h : mul32 x genC1 = BitVec.allOnes 32) : genNext x = 0#32 :=
  genNext_eq_zero (h ▸ BitVec.xor_eq_zero_iff.mpr (rotl32_allOnes (by decide)).symm)

theorem keystreamState_zero (i : Nat) : keystreamState 0#32 i = 0#32 := by
  induction i with
  | zero => exact genNext_zero
  | succ i ih => rw [keystreamState, ih, genNext_zero]

theorem keystreamByte_zero (i : Nat) : keystreamByte 0#32 i = 0#8 := by
  rw [keystreamByte, keystreamState_zero]
  rfl

/-- An even factor does not see the top bit of the other one (R125). -/
theorem mul32_add_two_pow_31 {c : Word} (hc : c.toNat % 2 = 0) (x : Word) :
    mul32 (x + 0x80000000#32) c = mul32 x c := by
  have htop : 0x80000000#32 * c = 0#32 := by
    apply BitVec.eq_of_toNat_eq
    rw [BitVec.toNat_mul, BitVec.toNat_ofNat, BitVec.toNat_ofNat]
    omega
  rw [mul32_eq_mul, mul32_eq_mul, BitVec.add_mul, htop, BitVec.add_zero]

/-- Settles O23: 0xD491D859 is sent to the all-ones word by the product with C1, whose XOR with its own rotation is 0. -/
theorem generatorIsNotInjective : Obligations.GeneratorIsNotInjective := by
  have hC4 : genC4.toNat % 2 = 0 := by decide
  have hprod : mul32 0xD491D859#32 genC1 = 0xFFFFFFFF#32 := by decide
  have hnext : genNext 0xD491D859#32 = 0#32 := genNext_eq_zero_of_mul_eq_allOnes hprod
  refine ⟨genNext_zero, keystreamByte_zero, hC4, mul32_add_two_pow_31 hC4, fun k _ hk => ?_, hprod, hnext, fun hinj => ?_⟩
  · have hk : k < 32 := Nat.lt_succ_of_le hk
    simp only [BitVec.xor_eq_zero_iff]
    exact ⟨(rotl32_zero k).symm, (rotr32_zero k).symm, (rotl32_allOnes hk).symm, (rotr32_allOnes hk).symm⟩
  · have hsame : 0xD491D859#32 = 0#32 := hinj (hnext.trans genNext_zero.symm)
    exact absurd hsame (by decide)

/-- Settles O22: the model's products and rotations are the library's. -/
theorem generatorStepFormula : Obligations.GeneratorStepFormula := by
  refine ⟨by decide, fun x => ?_⟩
  have hl13 (v : Word) := rotl32_eq_rotateLeft v 13 (by decide)
  have hr5 (v : Word) := rotr32_eq_rotateRight v 5 (by decide)
  have hl24 (v : Word) := rotl32_eq_rotateLeft v 24 (by decide)
  have hr17 (v : Word) := rotr32_eq_rotateRight v 17 (by decide)
  simp only [genNext, mul32_eq_mul, hl13, hr5, hl24, hr17, genC1, genC2, genC3, genC4]

/-! ## NEXT (41_prng.md R122) -/

/-- Settles O24: NEXT is the opcode 0x08 with every field zero, and it checks nothing. -/
theorem nextStepsTheGenerator : Obligations.NextStepsTheGenerator :=
  ⟨decode_encode .next, exec_next⟩

end Sys2Proof.Proofs
end

section
namespace Sys2Proof.Proofs

open Sys2Proof.Machine Sys2Proof.Safety

/-! ## Successful commands (60_exceptions.md R230) -/

/-- A command that passes its checks completes with its effect. -/
theorem exec_of_checks {i : Instr} {s : State} (hkey : usesKey i → s.kcnt = 4#4)
    (hlen : usesLength i → s.len.toNat ≤ Config.nMax) : exec i s = .next ((commandEffect i s).setErrcode errOk) := by
  rcases exec_outcome i s with ⟨h, -⟩ | ⟨-, hi, hk⟩ | ⟨-, hi, hl⟩
  · exact h
  · exact absurd (hkey hi) hk
  · exact absurd (hlen hi) (Nat.not_le_of_lt hl)

/-- A command that ends with ERRCODE = OK has passed its checks and completed with its effect. -/
theorem eq_commandEffect_of_errcode_ok {i : Instr} {s t : State} (h : exec i s = .next t) (hok : t.errcode = 0#3) :
    t = (commandEffect i s).setErrcode errOk := by
  rcases exec_cases h with ⟨rfl, -⟩ | ⟨c, rfl | rfl, rfl⟩
  · rfl
  · exact absurd hok (by simp [errInvalidKeyLength])
  · exact absurd hok (by simp [errBadLength])

/-! ## The sequences as iterates

Each stage loop updates its register once per byte or per block, so the register after a stage is an iterate, and so is
the spec's sequence. -/

theorem keystreamState_eq_iterate (v : Word) (i : Nat) : keystreamState v i = genNext^[i + 1] v := by
  induction i with
  | zero => rfl
  | succ i ih => rw [keystreamState, ih, Function.iterate_succ_apply' genNext (i + 1)]

/-- Dropping the first state of a keystream is starting from it (42_keystream.md R140). -/
theorem keystreamState_succ (v : Word) (i : Nat) : keystreamState v (i + 1) = keystreamState (genNext v) i := by
  rw [keystreamState_eq_iterate, keystreamState_eq_iterate, Function.iterate_succ_apply]

theorem keystreamByte_succ (v : Word) (i : Nat) : keystreamByte v (i + 1) = keystreamByte (genNext v) i :=
  congrArg low8 (keystreamState_succ v i)

theorem keystreamEnd_eq_iterate (v : Word) (n : Nat) : keystreamEnd v n = genNext^[n] v := by
  cases n with
  | zero => rfl
  | succ n => exact keystreamState_eq_iterate v n

theorem keystreamEnd_of_pos {n : Nat} (v : Word) (h : 1 ≤ n) : keystreamEnd v n = keystreamState v (n - 1) := by
  obtain ⟨m, rfl⟩ := Nat.exists_eq_add_of_le' h
  rfl

theorem blockCounter_eq_iterate (m : Nat) : blockCounter m = blockAdv^[m] 0#3 := by
  induction m with
  | zero => rfl
  | succ m ih => rw [blockCounter, ih, Function.iterate_succ_apply']

theorem byteCounter_eq_iterate (n : Nat) : byteCounter n = byteAdv^[n] 0#3 := by
  induction n with
  | zero => rfl
  | succ n ih => rw [byteCounter, ih, Function.iterate_succ_apply']

/-- A counter that goes round a cycle of seven values visits them by position mod 7. -/
theorem iterate_succ_of_period_seven {adv : BitVec 3 → BitVec 3} {cycle : List (BitVec 3)} {v : BitVec 3}
    (hfirst : adv v = cycle.getD 0 0#3) (hadv : ∀ r < 7, adv (cycle.getD r 0#3) = cycle.getD ((r + 1) % 7) 0#3)
    (n : Nat) : adv^[n + 1] v = cycle.getD (n % 7) 0#3 := by
  induction n with
  | zero => exact hfirst
  | succ n ih =>
    rw [Function.iterate_succ_apply', ih, hadv _ (Nat.mod_lt n (by decide)), Nat.mod_add_mod]

/-- The block counter has period 7 (43_block_rotation.md R160). -/
theorem blockCounter_succ (m : Nat) :
    blockCounter (m + 1) = [4#3, 1#3, 5#3, 2#3, 6#3, 3#3, 7#3].getD (m % 7) 0#3 := by
  rw [blockCounter_eq_iterate]
  exact iterate_succ_of_period_seven (by rfl) (by decide) m

/-- The byte-transform counter has period 7 (44_byte_transform.md R182). -/
theorem byteCounter_succ (n : Nat) :
    byteCounter (n + 1) = [5#3, 3#3, 1#3, 6#3, 4#3, 2#3, 7#3].getD (n % 7) 0#3 := by
  rw [byteCounter_eq_iterate]
  exact iterate_succ_of_period_seven (by rfl) (by decide) n

/-! ## The register of a stage (42_keystream.md R146, 43_block_rotation.md R167, 44_byte_transform.md R193) -/

theorem ksXorBytes_snd (x : Word) (bs : List Byte) : (ksXorBytes x bs).2 = genNext^[bs.length] x := by
  induction bs generalizing x with
  | nil => rfl
  | cons b bs ih => exact ih (genNext x)

theorem rotBlocks_snd (rot : List Byte → Nat → List Byte) (m : Nat) (v : BitVec 3) (bs : List Byte) :
    (rotBlocks rot m v bs).2 = blockAdv^[m] v := by
  induction m generalizing v bs with
  | zero => rfl
  | succ m ih => exact ih (blockAdv v) (bs.drop 8)

theorem xfBytes_snd (f : Byte → Nat → Bool → Byte) (v : BitVec 3) (i : Nat) (bs : List Byte) :
    (xfBytes f v i bs).2 = byteAdv^[bs.length] v := by
  induction bs generalizing v i with
  | nil => rfl
  | cons b bs ih => exact ih (byteAdv v) (i + 1)

theorem ksXorStage_x_eq_keystreamEnd (s : State) : (ksXorStage s).x = keystreamEnd s.seed s.len.toNat := by
  rw [ksXorStage_x, ksXorBytes_snd, State.buffer_length, keystreamEnd_eq_iterate]

theorem blockStage_bstep_eq_blockCounter (rot : List Byte → Nat → List Byte) (s : State) :
    (blockStage rot s).bstep = blockCounter (blockCount s.len.toNat) := by
  rw [blockStage_bstep, rotBlocks_snd, blockCounter_eq_iterate]

theorem xfStage_tstep_eq_byteCounter (f : Byte → Nat → Bool → Byte) (s : State) :
    (xfStage f s).tstep = byteCounter s.len.toNat := by
  rw [xfStage_tstep, xfBytes_snd, State.buffer_length, byteCounter_eq_iterate]

section StageRegisters
variable {i : Instr} (s : State)

theorem commandEffect_x_of_keystream (hi : i = .ksxor ∨ i = .encode ∨ i = .decode) :
    (commandEffect i s).x = keystreamEnd (commandEffect i s).seed s.len.toNat := by
  rcases hi with rfl | rfl | rfl <;> exact ksXorStage_x_eq_keystreamEnd _

theorem commandEffect_bstep_of_rotation (hi : i = .blkfwd ∨ i = .blkinv ∨ i = .encode ∨ i = .decode) :
    (commandEffect i s).bstep = blockCounter (blockCount s.len.toNat) := by
  rcases hi with rfl | rfl | rfl | rfl <;> exact blockStage_bstep_eq_blockCounter _ _

theorem commandEffect_tstep_of_transform (hi : i = .xfenc ∨ i = .xfdec ∨ i = .encode ∨ i = .decode) :
    (commandEffect i s).tstep = byteCounter s.len.toNat := by
  rcases hi with rfl | rfl | rfl | rfl <;> exact xfStage_tstep_eq_byteCounter _ _

end StageRegisters

/-- Settles O49: the registers hold the ends of the spec's sequences, which for LEN ≥ 1 are their last members. -/
theorem registersAfterAStage : Obligations.RegistersAfterAStage := by
  intro i s t h hok
  obtain rfl := eq_commandEffect_of_errcode_ok h hok
  refine ⟨fun hi => ?_, fun hi => ?_, fun hi => ?_⟩
  · rw [State.setErrcode_x, State.setErrcode_seed, commandEffect_x_of_keystream s hi]
    exact ⟨fun hzero => by rw [hzero, keystreamEnd], keystreamEnd_of_pos _⟩
  · rw [State.setErrcode_bstep, commandEffect_bstep_of_rotation s hi, blockCount]
    refine ⟨fun hzero => by rw [hzero]; rfl, fun hpos => ?_⟩
    rw [← blockCounter_succ, Nat.sub_add_cancel (by omega)]
  · rw [State.setErrcode_tstep, commandEffect_tstep_of_transform s hi]
    refine ⟨fun hzero => by rw [hzero, byteCounter], fun hpos => ?_⟩
    rw [← byteCounter_succ, Nat.sub_add_cancel hpos]

/-! ## KSBYTE (42_keystream.md R142) -/

theorem zext32_low8_toNat (v : Word) : (zext32 (low8 v)).toNat = v.toNat % 256 := by
  rw [zext32, BitVec.toNat_setWidth_of_le (by decide), low8, BitVec.extractLsb'_toNat, Nat.shiftRight_zero]

/-- Settles O25: SEED is where its keystream starts, and one step of the generator leads from each state to the next. -/
theorem ksbyteReturnsTheNextKeystreamByte : Obligations.KsbyteReturnsTheNextKeystreamByte := by
  refine ⟨decode_encode .ksbyte, fun s => ⟨_, exec_ksbyte s, rfl, zext32_low8_toNat _, fun hx => ?_, fun i hx => ?_⟩⟩
  · exact ⟨congrArg genNext hx, congrArg (zext32 ∘ low8 ∘ genNext) hx⟩
  · exact ⟨congrArg genNext hx, congrArg (zext32 ∘ low8 ∘ genNext) hx⟩

/-! ## KSXOR (42_keystream.md R143, R144) -/

theorem ksXorBytes_getElem? (x : Word) (bs : List Byte) (i : Nat) :
    (ksXorBytes x bs).1[i]? = bs[i]?.map (· ^^^ keystreamByte x i) := by
  induction bs generalizing x i with
  | nil => rfl
  | cons b bs ih =>
    cases i with
    | zero => rfl
    | succ i =>
      rw [keystreamByte_succ]
      exact ih (genNext x) i

theorem ksXorStage_byte_below {s : State} {i : Nat} (h : i < s.len.toNat) :
    (ksXorStage s).byte i = s.byte i ^^^ keystreamByte s.seed i := by
  refine State.byte_storeBytes_inside _ 0 i _ _ (Nat.zero_le i) ?_
  rw [Nat.sub_zero, ksXorBytes_getElem?, State.buffer_getElem? s i h, Option.map_some]

theorem exec_ksxor_of_le {s : State} (h : s.len.toNat ≤ Config.nMax) :
    exec .ksxor s = .next ((ksXorStage s).setErrcode errOk) := requireLen_of_le _ h

/-- Settles O26: the stage below LEN, at and above LEN, and in X. -/
theorem ksxorXorsTheKeystream : Obligations.KsxorXorsTheKeystream := by
  refine ⟨decode_encode .ksxor, fun s => ⟨fun hl => ⟨_, exec_ksxor_of_le hl, ?_, ?_, ?_⟩, requireLen_of_lt _⟩⟩
  · rw [← ksXorStage_x_eq_keystreamEnd]
    rfl
  · exact fun i hi => ksXorStage_byte_below hi
  · exact ksXorStage_byte_above s

/-- KSXOR keeps SEED and LEN, so a second one XORs the same keystream onto the same bytes (R144). -/
theorem ksXorStage_ksXorStage_byte (s : State) (j : Nat) : (ksXorStage (ksXorStage s)).byte j = s.byte j := by
  by_cases hj : j < s.len.toNat
  · rw [ksXorStage_byte_below (s := ksXorStage s) hj, ksXorStage_byte_below hj, ksXorStage_seed, BitVec.xor_assoc,
      BitVec.xor_self, BitVec.xor_zero]
  · have hj := Nat.le_of_not_lt hj
    rw [ksXorStage_byte_above (ksXorStage s) j hj, ksXorStage_byte_above s j hj]

/-- Settles O27: both runs pass the length check, and the two stages together keep every byte. -/
theorem ksxorIsItsOwnInverse : Obligations.KsxorIsItsOwnInverse :=
  fun s hl => ⟨_, _, exec_ksxor_of_le hl, exec_ksxor_of_le (s := (ksXorStage s).setErrcode errOk) hl,
    ksXorStage_ksXorStage_byte s⟩

/-! ## Restarts (42_keystream.md R145)

Each stage starts its register afresh and does not look at the registers of the other two. -/

section Restarts
variable (s : State) (v : Word) (b : BitVec 3) (rot : List Byte → Nat → List Byte) (f : Byte → Nat → Bool → Byte)

@[simp] theorem loadSeed_setX : loadSeed (s.setX v) = loadSeed s := rfl
@[simp] theorem loadSeed_setBstep : loadSeed (s.setBstep b) = (loadSeed s).setBstep b := rfl
@[simp] theorem loadSeed_setTstep : loadSeed (s.setTstep b) = (loadSeed s).setTstep b := rfl
@[simp] theorem ksXorStage_setX : ksXorStage (s.setX v) = ksXorStage s := rfl
@[simp] theorem ksXorStage_setBstep : ksXorStage (s.setBstep b) = (ksXorStage s).setBstep b := rfl
@[simp] theorem ksXorStage_setTstep : ksXorStage (s.setTstep b) = (ksXorStage s).setTstep b := rfl
@[simp] theorem blockStage_setBstep : blockStage rot (s.setBstep b) = blockStage rot s := rfl
@[simp] theorem blockStage_setTstep : blockStage rot (s.setTstep b) = (blockStage rot s).setTstep b := rfl
@[simp] theorem xfStage_setBstep : xfStage f (s.setBstep b) = (xfStage f s).setBstep b := rfl
@[simp] theorem xfStage_setTstep : xfStage f (s.setTstep b) = xfStage f s := rfl

end Restarts

/-- X and the counters reach no stage of a pipeline command but their own, and that one starts them afresh. -/
theorem pipeline_effect_restarts {i : Instr} (hi : i = .encode ∨ i = .decode) (s : State) (v : Word)
    (b b' : BitVec 3) : commandEffect i (((s.setX v).setBstep b).setTstep b') = commandEffect i s := by
  rcases hi with rfl | rfl <;> simp [commandEffect]

/-- A command whose effect does not see an update that its checks do not see either answers the same after it. -/
theorem exec_eq_of_effect_eq {i : Instr} {s s' : State} (hkcnt : s'.kcnt = s.kcnt) (hlen : s'.len = s.len)
    (heffect : commandEffect i s' = commandEffect i s) (hk : usesKey i → s.kcnt = 4#4)
    (hl : usesLength i → s.len.toNat ≤ Config.nMax) : exec i s' = exec i s := by
  rw [exec_of_checks hk hl, exec_of_checks (hkcnt ▸ hk) (hlen ▸ hl), heffect]

/-- Settles O28: the effects restart, and the checks read KCNT and LEN alone. -/
theorem stagesRestartTheirOwnState : Obligations.StagesRestartTheirOwnState := by
  intro s v b b' hl
  refine ⟨?_, fun hk => ⟨?_, ?_⟩⟩
  · exact exec_eq_of_effect_eq rfl rfl (ksXorStage_setX s v) (by simp [usesKey]) fun _ => hl
  · exact exec_eq_of_effect_eq rfl rfl (pipeline_effect_restarts (.inl rfl) s v b b') (fun _ => hk) fun _ => hl
  · exact exec_eq_of_effect_eq rfl rfl (pipeline_effect_restarts (.inr rfl) s v b b') (fun _ => hk) fun _ => hl

end Sys2Proof.Proofs
end

section
namespace Sys2Proof.Proofs

open Sys2Proof.Machine Sys2Proof.Safety

/-! ## The step recurrences (43_block_rotation.md R160, 44_byte_transform.md R182) -/

theorem blockAdv_toNat (v : BitVec 3) : (blockAdv v).toNat = (v.toNat + 3) % 7 + 1 := by
  rw [blockAdv, BitVec.toNat_ofNat]
  omega

theorem byteAdv_toNat (v : BitVec 3) : (byteAdv v).toNat = (v.toNat + 4) % 7 + 1 := by
  rw [byteAdv, BitVec.toNat_ofNat]
  omega

/-- Settles O29: a value 1..7 fits the counter, the maps are finite, and the sequences have period 7. -/
theorem stepRecurrences : Obligations.StepRecurrences :=
  ⟨blockAdv_toNat, by decide, blockCounter_succ, byteAdv_toNat, by decide, byteCounter_succ⟩

/-! ## BSADV (43_block_rotation.md R162) -/

/-- Settles O30: BSADV checks nothing. -/
theorem bsadvAdvancesTheBlockCounter : Obligations.BsadvAdvancesTheBlockCounter :=
  ⟨decode_encode .bsadv, fun s => ⟨blockAdv s.bstep, blockAdv_toNat s.bstep, exec_bsadv s⟩⟩

/-! ## The rotation of one block (43_block_rotation.md R163, R166)

Both directions are the library's `List.rotate`, by amounts that add up to the length. -/

section Rotation
variable {blk : List Byte} {a i n : Nat}

theorem rotFwd_eq_rotate (h : a ≤ blk.length) : rotFwd blk a = blk.rotate a :=
  (List.rotate_eq_drop_append_take h).symm

theorem rotInv_eq_rotate (blk : List Byte) (a : Nat) : rotInv blk a = blk.rotate (blk.length - a) :=
  (List.rotate_eq_drop_append_take (Nat.sub_le ..)).symm

theorem rotInv_rotFwd (h : a ≤ blk.length) : rotInv (rotFwd blk a) a = blk := by
  rw [rotInv_eq_rotate, rotFwd_length, rotFwd_eq_rotate h, List.rotate_rotate, Nat.add_sub_cancel' h,
    List.rotate_length]

theorem rotFwd_rotInv (h : a ≤ blk.length) : rotFwd (rotInv blk a) a = blk := by
  rw [rotFwd_eq_rotate (by rwa [rotInv_length]), rotInv_eq_rotate, List.rotate_rotate, Nat.sub_add_cancel h,
    List.rotate_length]

theorem rotFwd_getElem? (hn : blk.length = n) (ha : a ≤ n) (hi : i < n) :
    (rotFwd blk a)[i]? = blk[(i + a) % n]? := by
  subst hn
  rw [rotFwd_eq_rotate ha, List.getElem?_rotate hi]

/-- The inverse direction, read where the forward direction puts byte `i` back. -/
theorem rotInv_getElem? (hn : blk.length = n) (ha : a ≤ n) (hi : i < n) :
    (rotInv blk a)[(i + a) % n]? = blk[i]? := by
  rw [← rotFwd_getElem? ((rotInv_length blk a).trans hn) ha hi, rotFwd_rotInv (ha.trans_eq hn.symm)]

end Rotation

/-! ## Blocks of a buffer (43_block_rotation.md R161) -/

section Blocks
variable {n off : Nat}

theorem blockSize_pos (h : isBlock n off) : 0 < blockSize n off := by
  have := h.2
  unfold blockSize
  omega

theorem add_blockSize_le (h : isBlock n off) : off + blockSize n off ≤ n := by
  have := h.2
  unfold blockSize
  omega

theorem blockAmount_lt_blockSize (h : isBlock n off) : blockAmount n off < blockSize n off :=
  Nat.mod_lt _ (blockSize_pos h)

/-- Every position below LEN is a position of a block. -/
theorem exists_block_of_lt {j : Nat} (h : j < n) : ∃ off i, isBlock n off ∧ i < blockSize n off ∧ j = off + i := by
  refine ⟨8 * (j / 8), j % 8, ⟨Nat.mul_mod_right 8 _, ?_⟩, ?_, (Nat.div_add_mod j 8).symm⟩
  · omega
  · unfold blockSize
    omega

end Blocks

theorem bytes_eq_take_drop_buffer (s : State) {j n : Nat} (h : j + n ≤ s.len.toNat) :
    s.bytes j n = (s.buffer.drop j).take n := by
  refine List.ext_getElem? fun i => ?_
  by_cases hi : i < n
  · rw [s.bytes_getElem? j n i hi, List.getElem?_take_of_lt hi, List.getElem?_drop, s.buffer_getElem? _ (by omega)]
  · rw [List.getElem?_eq_none (by rw [s.bytes_length]; omega), List.getElem?_take_eq_none (by omega)]

/-! ## The block rotation stage, block by block (43_block_rotation.md R164, R165) -/

section RotationStage
variable {rot : List Byte → Nat → List Byte} (hrot : ∀ blk a, (rot blk a).length = blk.length)
include hrot

/-- The loop rotates block `k` by its `k + 1`-th update of the counter, mod the size of the block. -/
theorem rotBlocks_block {m k : Nat} (v : BitVec 3) {bs : List Byte} (hm : k < m) (hk : 8 * k ≤ bs.length) :
    ((rotBlocks rot m v bs).1.drop (8 * k)).take (blockSize bs.length (8 * k)) =
      rot ((bs.drop (8 * k)).take (blockSize bs.length (8 * k)))
        ((blockAdv^[k + 1] v).toNat % blockSize bs.length (8 * k)) := by
  induction m generalizing k v bs with
  | zero => exact absurd hm (Nat.not_lt_zero k)
  | succ m ih =>
    cases k with
    | zero =>
      have hsize : blockSize bs.length (8 * 0) = (bs.take 8).length := by simp [blockSize]
      have hblk : bs.take (bs.take 8).length = bs.take 8 := by simp [List.take_eq_take_iff]
      rw [hsize, Nat.mul_zero, List.drop_zero, List.drop_zero, hblk]
      exact List.take_left' (hrot _ _)
    | succ k =>
      have hfull (a : Nat) : (rot (bs.take 8) a).length = 8 := by
        rw [hrot, List.length_take]
        omega
      have hsize : blockSize bs.length (8 * (k + 1)) = blockSize (bs.drop 8).length (8 * k) := by
        simp only [blockSize, List.length_drop]
        omega
      rw [hsize, Nat.mul_succ, Nat.add_comm, rotBlocks, ← List.drop_drop, List.drop_left' (hfull _), ← List.drop_drop,
        Function.iterate_succ_apply]
      exact ih (blockAdv v) (Nat.lt_of_succ_lt_succ hm) (by rw [List.length_drop]; omega)

/-- The stage rotates every block of the buffer by its amount. -/
theorem blockStage_block (s : State) {off : Nat} (h : isBlock s.len.toNat off) :
    (blockStage rot s).bytes off (blockSize s.len.toNat off) =
      rot (s.bytes off (blockSize s.len.toNat off)) (blockAmount s.len.toNat off) := by
  have hle := add_blockSize_le h
  obtain ⟨k, rfl⟩ := Nat.dvd_of_mod_eq_zero h.1
  have hlt : 8 * k < s.len.toNat := h.2
  have hblk := rotBlocks_block hrot (m := blockCount s.len.toNat) (k := k) 0#3 (bs := s.buffer)
    (by unfold blockCount; omega) (by rw [State.buffer_length]; omega)
  rw [State.buffer_length] at hblk
  rw [bytes_eq_take_drop_buffer (blockStage rot s) hle, bytes_eq_take_drop_buffer s hle, blockStage_buffer rot hrot,
    hblk, blockAmount, blockCounter_eq_iterate, Nat.mul_div_cancel_left k (by decide)]

/-- A stage whose rotation undoes that of an earlier one undoes that stage: LEN, and so every block and its amount, is
the same for both (R166). -/
theorem blockStage_undo {rot' : List Byte → Nat → List Byte} (hrot' : ∀ blk a, (rot' blk a).length = blk.length)
    (hundo : ∀ blk a, a ≤ blk.length → rot' (rot blk a) a = blk) (s : State) (j : Nat) :
    (blockStage rot' (blockStage rot s)).byte j = s.byte j := by
  by_cases hj : j < s.len.toNat
  · obtain ⟨off, i, hoff, hi, rfl⟩ := exists_block_of_lt hj
    have hblk : (blockStage rot' (blockStage rot s)).bytes off (blockSize s.len.toNat off) =
        s.bytes off (blockSize s.len.toNat off) := by
      refine (blockStage_block hrot' (blockStage rot s) hoff).trans ?_
      rw [blockStage_len, blockStage_block hrot s hoff]
      exact hundo _ _ (by rw [State.bytes_length]; exact (blockAmount_lt_blockSize hoff).le)
    have hbyte := congrArg (·[i]?) hblk
    simpa only [State.bytes_getElem? _ _ _ _ hi, Option.some.injEq] using hbyte
  · have hj := Nat.le_of_not_lt hj
    rw [blockStage_byte_above rot' hrot' (blockStage rot s) j hj, blockStage_byte_above rot hrot s j hj]

end RotationStage

/-! ## BLKFWD and BLKINV (43_block_rotation.md R164..R166) -/

section RotatedBytes
variable {s : State} {off i : Nat} (hoff : isBlock s.len.toNat off) (hi : i < blockSize s.len.toNat off)
include hoff hi

theorem blockStage_rotFwd_byte : (blockStage rotFwd s).byte (off + i) =
    s.byte (off + (i + blockAmount s.len.toNat off) % blockSize s.len.toNat off) := by
  have hrot := rotFwd_getElem? (s.bytes_length off (blockSize s.len.toNat off)) (blockAmount_lt_blockSize hoff).le hi
  rw [← blockStage_block rotFwd_length s hoff, State.bytes_getElem? _ _ _ _ hi,
    State.bytes_getElem? _ _ _ _ (Nat.mod_lt _ (blockSize_pos hoff))] at hrot
  exact Option.some.inj hrot

theorem blockStage_rotInv_byte :
    (blockStage rotInv s).byte (off + (i + blockAmount s.len.toNat off) % blockSize s.len.toNat off) =
      s.byte (off + i) := by
  have hrot := rotInv_getElem? (s.bytes_length off (blockSize s.len.toNat off)) (blockAmount_lt_blockSize hoff).le hi
  rw [← blockStage_block rotInv_length s hoff, State.bytes_getElem? _ _ _ _ hi,
    State.bytes_getElem? _ _ _ _ (Nat.mod_lt _ (blockSize_pos hoff))] at hrot
  exact Option.some.inj hrot

end RotatedBytes

theorem exec_blkfwd_of_le {s : State} (h : s.len.toNat ≤ Config.nMax) :
    exec .blkfwd s = .next ((blockStage rotFwd s).setErrcode errOk) := requireLen_of_le _ h

theorem exec_blkinv_of_le {s : State} (h : s.len.toNat ≤ Config.nMax) :
    exec .blkinv s = .next ((blockStage rotInv s).setErrcode errOk) := requireLen_of_le _ h

/-- The frame of a rotation command: BSTEP, BUF and ERRCODE are all it writes (10_state.md R35). -/
theorem blockStage_frame (rot : List Byte → Nat → List Byte) (s : State) :
    (blockStage rot s).setErrcode errOk = { s with
      bstep := blockCounter ((s.len.toNat + 7) / 8), buf := (blockStage rot s).buf, errcode := 0#3 } := by
  rw [← blockCount, ← blockStage_bstep_eq_blockCounter rot s]
  rfl

/-- Settles O31: the stage block by block below LEN, at and above LEN, and in its registers. -/
theorem blkfwdRotatesEachBlockLeft : Obligations.BlkfwdRotatesEachBlockLeft := by
  refine ⟨decode_encode .blkfwd, fun s => ⟨fun hl => ⟨_, exec_blkfwd_of_le hl, ?_, ?_, ?_⟩, requireLen_of_lt _⟩⟩
  · exact blockStage_frame rotFwd s
  · exact fun _ _ => blockStage_rotFwd_byte
  · exact blockStage_byte_above rotFwd rotFwd_length s

/-- Settles O32: as for BLKFWD, with the other direction of rotation. -/
theorem blkinvRotatesEachBlockRight : Obligations.BlkinvRotatesEachBlockRight := by
  refine ⟨decode_encode .blkinv, fun s => ⟨fun hl => ⟨_, exec_blkinv_of_le hl, ?_, ?_, ?_⟩, requireLen_of_lt _⟩⟩
  · exact blockStage_frame rotInv s
  · exact fun _ _ => blockStage_rotInv_byte
  · exact blockStage_byte_above rotInv rotInv_length s

/-- Settles O33: both runs pass the length check, and each stage undoes the other. -/
theorem blockRotationsAreInverse : Obligations.BlockRotationsAreInverse := by
  refine ⟨fun _ _ ha => ⟨rotInv_rotFwd ha.le, rotFwd_rotInv ha.le⟩, fun s hl => ⟨?_, ?_⟩⟩
  · exact ⟨_, _, exec_blkfwd_of_le hl, exec_blkinv_of_le (s := (blockStage rotFwd s).setErrcode errOk) hl,
      blockStage_undo rotFwd_length rotInv_length (fun _ _ => rotInv_rotFwd) s⟩
  · exact ⟨_, _, exec_blkinv_of_le hl, exec_blkfwd_of_le (s := (blockStage rotInv s).setErrcode errOk) hl,
      blockStage_undo rotInv_length rotFwd_length (fun _ _ => rotFwd_rotInv) s⟩

end Sys2Proof.Proofs
end

section
namespace Sys2Proof.Proofs

open Sys2Proof.Machine Sys2Proof.Safety

/-! ## The substitution (44_byte_transform.md R180, R181) -/

section Substitution
variable {v : Byte}

/-- The first half of either alphabet moves up. -/
theorem rot13_toNat_of_first_half
    (h : 0x41 ≤ v.toNat ∧ v.toNat ≤ 0x4D ∨ 0x61 ≤ v.toNat ∧ v.toNat ≤ 0x6D) : (rot13 v).toNat = v.toNat + 13 := by
  rw [rot13, if_pos h]
  bv_omega

/-- The second half of either alphabet moves down. -/
theorem rot13_toNat_of_second_half
    (h : 0x4E ≤ v.toNat ∧ v.toNat ≤ 0x5A ∨ 0x6E ≤ v.toNat ∧ v.toNat ≤ 0x7A) : (rot13 v).toNat + 13 = v.toNat := by
  rw [rot13, if_neg (by omega), if_pos h]
  bv_omega

/-- No other byte value is a letter. -/
theorem rot13_of_not_letter (h : v.toNat < 0x41 ∨ 0x5A < v.toNat ∧ v.toNat < 0x61 ∨ 0x7A < v.toNat) : rot13 v = v := by
  rw [rot13, if_neg (by omega), if_neg (by omega)]

end Substitution

/-- Every byte value is in the first half of an alphabet, in the second half of one, or no letter. -/
theorem letter_ranges (v : Byte) : (0x41 ≤ v.toNat ∧ v.toNat ≤ 0x4D ∨ 0x61 ≤ v.toNat ∧ v.toNat ≤ 0x6D) ∨
    (0x4E ≤ v.toNat ∧ v.toNat ≤ 0x5A ∨ 0x6E ≤ v.toNat ∧ v.toNat ≤ 0x7A) ∨
    (v.toNat < 0x41 ∨ 0x5A < v.toNat ∧ v.toNat < 0x61 ∨ 0x7A < v.toNat) := by
  omega

/-- The substitution swaps the halves of each alphabet (R181). -/
@[simp] theorem rot13_rot13 (v : Byte) : rot13 (rot13 v) = v := by
  apply BitVec.eq_of_toNat_eq
  rcases letter_ranges v with h | h | h
  · have hup := rot13_toNat_of_first_half h
    have hdown := rot13_toNat_of_second_half (v := rot13 v) (by omega)
    omega
  · have hdown := rot13_toNat_of_second_half h
    have hup := rot13_toNat_of_first_half (v := rot13 v) (by omega)
    omega
  · rw [rot13_of_not_letter h, rot13_of_not_letter h]

/-- A letter stays in its alphabet (R181). -/
theorem rot13_keeps_case (v : Byte) :
    (0x41 ≤ v.toNat ∧ v.toNat ≤ 0x5A → 0x41 ≤ (rot13 v).toNat ∧ (rot13 v).toNat ≤ 0x5A) ∧
    (0x61 ≤ v.toNat ∧ v.toNat ≤ 0x7A → 0x61 ≤ (rot13 v).toNat ∧ (rot13 v).toNat ≤ 0x7A) := by
  rcases letter_ranges v with h | h | h
  · have hup := rot13_toNat_of_first_half h
    omega
  · have hdown := rot13_toNat_of_second_half h
    omega
  · rw [rot13_of_not_letter h]
    exact ⟨id, id⟩

/-! ## Byte rotations (00_scope.md R12, 44_byte_transform.md R194)

A rotation to the right is one to the left by seven times the amount, and amounts to the left add up mod 8. -/

section ByteRotation
variable (v : Byte)

theorem rotl8_rotl8 (a b : Nat) : rotl8 (rotl8 v a) b = rotl8 v (a + b) := by
  simp only [rotl8_eq_rotateLeft]
  refine BitVec.eq_of_getMsbD_eq fun n hn => ?_
  have hmod : (b + n) % 8 < 8 := Nat.mod_lt _ (by decide)
  simp only [BitVec.getMsbD_rotateLeft, hn, hmod, decide_true, Bool.true_and, Nat.add_mod_mod, Nat.add_assoc]

theorem rotl8_of_mod_eq_zero {n : Nat} (h : n % 8 = 0) : rotl8 v n = v := if_pos h

theorem rotr8_eq_rotl8 (k : Nat) : rotr8 v k = rotl8 v (7 * k) := by
  by_cases hk : k % 8 = 0
  · rw [rotr8, if_pos hk, rotl8_of_mod_eq_zero v (by omega)]
  · have hleft : 7 * k % 8 = 8 - k % 8 := by omega
    have hright : 8 - 7 * k % 8 = k % 8 := by omega
    rw [rotr8, if_neg hk, rotl8, if_neg (by omega), hright, hleft, BitVec.or_comm]

@[simp] theorem rotr8_rotl8 (k : Nat) : rotr8 (rotl8 v k) k = v := by
  rw [rotr8_eq_rotl8, rotl8_rotl8]
  exact rotl8_of_mod_eq_zero v (by omega)

@[simp] theorem rotl8_rotr8 (k : Nat) : rotl8 (rotr8 v k) k = v := by
  rw [rotr8_eq_rotl8, rotl8_rotl8]
  exact rotl8_of_mod_eq_zero v (by omega)

end ByteRotation

/-- A rotation fixes every byte only when it is by a multiple of 8: the single bit of 0x01 has to come back. -/
theorem rotl8_eq_self_iff {n : Nat} : (∀ v : Byte, rotl8 v n = v) ↔ n % 8 = 0 := by
  refine ⟨fun h => ?_, fun h v => rotl8_of_mod_eq_zero v h⟩
  have hbit : ∀ r < 8, rotl8 1#8 r = 1#8 → r = 0 := by decide
  exact hbit (n % 8) (Nat.mod_lt n (by decide)) ((rotl8_mod _ _).trans (h 1#8))

/-- Settles O42: as a rotation to the left the opposite one by (8 - k) mod 8 is by 2k in all, a multiple of 8 only for
k = 0 and k = 4. -/
theorem byteRotationLaws : Obligations.ByteRotationLaws := by
  intro k hk
  refine ⟨fun v => ⟨rotr8_rotl8 v k, rotl8_rotr8 v k, ?_⟩, ?_, ?_⟩
  · rw [rotl8_rotl8]
    exact rotl8_of_mod_eq_zero v (by omega)
  · simp only [rotr8_eq_rotl8, rotl8_rotl8, rotl8_eq_self_iff]
    omega
  · simp only [rotr8_eq_rotl8, rotl8_rotl8, rotl8_eq_self_iff]
    omega

/-! ## The transform of one byte (44_byte_transform.md R183, R192) -/

section TransformedByte
variable (v : Byte) (a : Nat) (p : Bool)

theorem xenc_even : xenc v a false = (rot13 v).rotateLeft a := rotl8_eq_rotateLeft _ a

theorem xenc_odd : xenc v a true = (rot13 v).rotateRight a := rotr8_eq_rotateRight _ a

theorem xdec_even : xdec v a false = rot13 (v.rotateRight a) := congrArg rot13 (rotr8_eq_rotateRight v a)

theorem xdec_odd : xdec v a true = rot13 (v.rotateLeft a) := congrArg rot13 (rotl8_eq_rotateLeft v a)

theorem xdec_xenc : xdec (xenc v a p) a p = v := by
  cases p
  · exact (congrArg rot13 (rotr8_rotl8 (rot13 v) a)).trans (rot13_rot13 v)
  · exact (congrArg rot13 (rotl8_rotr8 (rot13 v) a)).trans (rot13_rot13 v)

theorem xenc_xdec : xenc (xdec v a p) a p = v := by
  cases p
  · exact (congrArg (rotl8 · a) (rot13_rot13 (rotr8 v a))).trans (rotl8_rotr8 v a)
  · exact (congrArg (rotr8 · a) (rot13_rot13 (rotl8 v a))).trans (rotr8_rotl8 v a)

end TransformedByte

end Sys2Proof.Proofs
end

section
namespace Sys2Proof.Proofs

open Sys2Proof.Machine Sys2Proof.Safety

/-! ## The byte transform stage, byte by byte (44_byte_transform.md R190, R191) -/

/-- The loop transforms byte `n` with its `n + 1`-th update of the counter and the parity of its position. -/
theorem xfBytes_getElem? (f : Byte → Nat → Bool → Byte) (v : BitVec 3) (i : Nat) (bs : List Byte) (n : Nat) :
    (xfBytes f v i bs).1[n]? = bs[n]?.map (f · (byteAdv^[n + 1] v).toNat ((i + n) % 2 == 1)) := by
  induction bs generalizing v i n with
  | nil => rfl
  | cons b bs ih =>
    cases n with
    | zero => rfl
    | succ n =>
      rw [Function.iterate_succ_apply, ← Nat.add_assoc, Nat.add_right_comm]
      exact ih (byteAdv v) (i + 1) n

theorem xfStage_byte_below (f : Byte → Nat → Bool → Byte) {s : State} {i : Nat} (h : i < s.len.toNat) :
    (xfStage f s).byte i = f (s.byte i) (byteCounter (i + 1)).toNat (i % 2 == 1) := by
  refine State.byte_storeBytes_inside _ 0 i _ _ (Nat.zero_le i) ?_
  rw [Nat.sub_zero, xfBytes_getElem?, State.buffer_getElem? s i h, Option.map_some, byteCounter_eq_iterate, Nat.zero_add]

/-- The frame of a byte transform command: TSTEP, BUF and ERRCODE are all it writes (10_state.md R35). -/
theorem xfStage_frame (f : Byte → Nat → Bool → Byte) (s : State) :
    (xfStage f s).setErrcode errOk =
      { s with tstep := byteCounter s.len.toNat, buf := (xfStage f s).buf, errcode := 0#3 } := by
  rw [← xfStage_tstep_eq_byteCounter f s]
  rfl

/-- A stage whose function undoes that of an earlier one undoes that stage: LEN, and so the counter and the parity of
every position, is the same for both (R192). -/
theorem xfStage_undo {f g : Byte → Nat → Bool → Byte} (hundo : ∀ v a p, g (f v a p) a p = v) (s : State) (j : Nat) :
    (xfStage g (xfStage f s)).byte j = s.byte j := by
  by_cases hj : j < s.len.toNat
  · rw [xfStage_byte_below g (s := xfStage f s) hj, xfStage_byte_below f hj, hundo]
  · have hj := Nat.le_of_not_lt hj
    rw [xfStage_byte_above g (xfStage f s) j hj, xfStage_byte_above f s j hj]

/-! ## XFENC and XFDEC (44_byte_transform.md R190, R191) -/

theorem exec_xfenc_of_le {s : State} (h : s.len.toNat ≤ Config.nMax) :
    exec .xfenc s = .next ((xfStage xenc s).setErrcode errOk) := requireLen_of_le _ h

theorem exec_xfdec_of_le {s : State} (h : s.len.toNat ≤ Config.nMax) :
    exec .xfdec s = .next ((xfStage xdec s).setErrcode errOk) := requireLen_of_le _ h

/-- Settles O39: the stage in its registers, below LEN, and at and above LEN. -/
theorem xfencTransformsEachByte : Obligations.XfencTransformsEachByte := by
  refine ⟨decode_encode .xfenc, fun s => ⟨fun hl => ⟨_, exec_xfenc_of_le hl, ?_, ?_, ?_⟩, requireLen_of_lt _⟩⟩
  · exact xfStage_frame xenc s
  · exact fun _ => xfStage_byte_below xenc
  · exact xfStage_byte_above xenc s

/-- Settles O40: as for XFENC, with the function of the other direction in the same stage. -/
theorem xfdecTransformsEachByte : Obligations.XfdecTransformsEachByte := by
  refine ⟨decode_encode .xfdec, fun s => ⟨fun hl => ⟨_, exec_xfdec_of_le hl, ?_, ?_, ?_⟩, requireLen_of_lt _⟩⟩
  · exact xfStage_frame xdec s
  · exact fun _ => xfStage_byte_below xdec
  · exact xfStage_byte_above xdec s

/-- Settles O41: both runs pass the length check, and each stage undoes the other. -/
theorem byteTransformsAreInverse : Obligations.ByteTransformsAreInverse := by
  refine ⟨fun v a p => ⟨xdec_xenc v a p, xenc_xdec v a p⟩, fun s hl => ⟨?_, ?_⟩⟩
  · exact ⟨_, _, exec_xfenc_of_le hl, exec_xfdec_of_le (s := (xfStage xenc s).setErrcode errOk) hl,
      xfStage_undo xdec_xenc s⟩
  · exact ⟨_, _, exec_xfdec_of_le hl, exec_xfenc_of_le (s := (xfStage xdec s).setErrcode errOk) hl,
      xfStage_undo xenc_xdec s⟩

end Sys2Proof.Proofs
end

section
namespace Sys2Proof.Proofs

open Sys2Proof.Machine Sys2Proof.Safety

/-! ## Words with operands (30_encoding.md R81, R85) -/

/-- The two parts of a concatenation shifted to their places. -/
theorem setWidth_append_eq_or {n m w : Nat} (x : BitVec n) (y : BitVec m) :
    (x ++ y).setWidth w = x.setWidth w <<< m ||| y.setWidth w := by
  apply BitVec.eq_of_getLsbD_eq
  intro i hi
  by_cases hm : i < m
  · simp [BitVec.getLsbD_append, hi, hm]
  · simp [BitVec.getLsbD_append, hi, hm, y.getLsbD_of_ge i (Nat.le_of_not_lt hm)]

/-- A command word as its fields shifted to their places (30_encoding.md R81). -/
theorem commandWord_eq_or (opc : Byte) (p : Bool) (k : BitVec 3) (imm8 : Byte) : commandWord opc p k imm8 =
    opc.setWidth 32 <<< 24 ||| (BitVec.ofBool p).setWidth 32 <<< 11 ||| k.setWidth 32 <<< 8 ||| imm8.setWidth 32 := by
  rw [← BitVec.setWidth_eq (commandWord opc p k imm8), commandWord]
  simp only [setWidth_append_eq_or, BitVec.setWidth_zero, BitVec.zero_shiftLeft, BitVec.zero_or, BitVec.or_assoc]

section Words
variable (imm8 : Byte) (k : BitVec 3) (p : Bool)

theorem encode_rot13 : encode (.rot13 imm8) = 0x19000000#32 ||| imm8.setWidth 32 :=
  commandWord_eq_or 0x19#8 false 0#3 imm8

theorem encode_brotl : encode (.brotl imm8 k) = 0x1A000000#32 ||| k.setWidth 32 <<< 8 ||| imm8.setWidth 32 :=
  commandWord_eq_or 0x1A#8 false k imm8

theorem encode_brotr : encode (.brotr imm8 k) = 0x1B000000#32 ||| k.setWidth 32 <<< 8 ||| imm8.setWidth 32 :=
  commandWord_eq_or 0x1B#8 false k imm8

theorem encode_xbenc : encode (.xbenc imm8 k p) =
    0x1C000000#32 ||| (BitVec.ofBool p).setWidth 32 <<< 11 ||| k.setWidth 32 <<< 8 ||| imm8.setWidth 32 :=
  commandWord_eq_or 0x1C#8 p k imm8

theorem encode_xbdec : encode (.xbdec imm8 k p) =
    0x1D000000#32 ||| (BitVec.ofBool p).setWidth 32 <<< 11 ||| k.setWidth 32 <<< 8 ||| imm8.setWidth 32 :=
  commandWord_eq_or 0x1D#8 p k imm8

end Words

/-! ## The scalar commands (44_byte_transform.md R184..R189) -/

/-- Settles O34: TSADV checks nothing, and its recurrence stays within the counter. -/
theorem tsadvAdvancesTheByteCounter : Obligations.TsadvAdvancesTheByteCounter :=
  ⟨decode_encode .tsadv, fun s => ⟨byteAdv s.tstep, byteAdv_toNat s.tstep, exec_tsadv s⟩⟩

/-- Zero extension keeps the value of the byte. -/
theorem zext32_byte_toNat (v : Byte) : (zext32 v).toNat = v.toNat := BitVec.toNat_setWidth_of_le (by decide)

/-- Settles O35: a byte is in the first half of an alphabet, in the second half of one, or no letter. -/
theorem rot13Substitutes : Obligations.Rot13Substitutes := by
  refine ⟨fun imm8 => encode_rot13 imm8 ▸ decode_encode (.rot13 imm8), fun imm8 s =>
    ⟨zext32 (rot13 imm8), exec_rot13 imm8 s, rfl, ?_, ?_, ?_, rot13_rot13 imm8, rot13_keeps_case imm8⟩⟩
  all_goals rw [zext32_byte_toNat]
  · exact rot13_toNat_of_first_half
  · exact rot13_toNat_of_second_half
  · exact fun h => congrArg BitVec.toNat (rot13_of_not_letter h)

/-- Settles O36: the commands apply the library's rotations, and check nothing. -/
theorem byteRotationCommands : Obligations.ByteRotationCommands := by
  refine ⟨fun imm8 k => ⟨?_, ?_⟩, fun imm8 k s => ⟨?_, ?_⟩⟩
  · exact encode_brotl imm8 k ▸ decode_encode (.brotl imm8 k)
  · exact encode_brotr imm8 k ▸ decode_encode (.brotr imm8 k)
  · exact rotl8_eq_rotateLeft imm8 k.toNat ▸ exec_brotl imm8 k s
  · exact rotr8_eq_rotateRight imm8 k.toNat ▸ exec_brotr imm8 k s

/-- Settles O37: XBENC applies the function of the byte stage at the amount and parity it names. -/
theorem xbencSubstitutesThenRotates : Obligations.XbencSubstitutesThenRotates := by
  refine ⟨fun imm8 k p => encode_xbenc imm8 k p ▸ decode_encode (.xbenc imm8 k p), fun imm8 k s => ⟨?_, ?_, ?_⟩⟩
  · exact xenc_even imm8 k.toNat ▸ exec_xbenc imm8 k false s
  · exact xenc_odd imm8 k.toNat ▸ exec_xbenc imm8 k true s
  · exact fun amount => ⟨xenc_even imm8 amount, xenc_odd imm8 amount⟩

/-- Settles O38: as for XBENC, with the function of the other direction, which undoes that of XBENC. -/
theorem xbdecRotatesThenSubstitutes : Obligations.XbdecRotatesThenSubstitutes := by
  refine ⟨fun imm8 k p => encode_xbdec imm8 k p ▸ decode_encode (.xbdec imm8 k p), fun imm8 k s => ⟨?_, ?_, ?_⟩,
    fun v k => xdec_xenc v k.toNat⟩
  · exact xdec_even imm8 k.toNat ▸ exec_xbdec imm8 k false s
  · exact xdec_odd imm8 k.toNat ▸ exec_xbdec imm8 k true s
  · exact fun amount => ⟨xdec_even imm8 amount, xdec_odd imm8 amount⟩

end Sys2Proof.Proofs
end

section
namespace Sys2Proof.Proofs

open Sys2Proof.Machine Sys2Proof.Safety

/-! ## Checks, registers and frame of the pipeline (45_pipeline.md R211, R212) -/

/-- What a completed pipeline command leaves in `t` of the state `s` before it: KEY, KCNT, LEN and RESULT as they were,
SEED, X and the counters at the ends of their sequences, and the bytes of its effect. -/
structure PipelineResult (i : Instr) (s t : State) : Prop where
  key : t.key = s.key
  kcnt : t.kcnt = s.kcnt
  len : t.len = s.len
  result : t.result = s.result
  errcode : t.errcode = 0#3
  seed : t.seed = s.key.le32
  x : t.x = keystreamEnd s.key.le32 s.len.toNat
  bstep : t.bstep = blockCounter ((s.len.toNat + 7) / 8)
  tstep : t.tstep = byteCounter s.len.toNat
  byte : ∀ j, t.byte j = (commandEffect i s).byte j

/-- The four registers depend on KEY and LEN alone, and are the same for both directions. -/
theorem PipelineResult.registers_eq {i i' : Instr} {s s' t t' : State} (h : PipelineResult i s t)
    (h' : PipelineResult i' s' t') (hkey : s.key = s'.key) (hlen : s.len = s'.len) :
    t.seed = t'.seed ∧ t.x = t'.x ∧ t.bstep = t'.bstep ∧ t.tstep = t'.tstep := by
  simp only [h.seed, h'.seed, h.x, h'.x, h.bstep, h'.bstep, h.tstep, h'.tstep, hkey, hlen, and_self]

/-- A command of any kind passes its checks when four key bytes are pushed and LEN fits the buffer. -/
theorem exec_of_key_and_length (i : Instr) {s : State} (hk : s.kcnt = 4#4) (hl : s.len.toNat ≤ Config.nMax) :
    exec i s = .next ((commandEffect i s).setErrcode errOk) :=
  exec_of_checks (fun _ => hk) fun _ => hl

section Pipeline
variable {i : Instr} (hi : i = .encode ∨ i = .decode)
include hi

/-- The key check comes first (60_exceptions.md R236). -/
theorem pipeline_of_kcnt_ne {s : State} (hk : s.kcnt ≠ 4#4) :
    exec i s = .next (s.setErrcode errInvalidKeyLength) := by
  rcases hi with rfl | rfl <;> exact requireKey_of_ne _ hk

theorem pipeline_of_len_gt {s : State} (hk : s.kcnt = 4#4) (hl : Config.nMax < s.len.toNat) :
    exec i s = .next (s.setErrcode errBadLength) := by
  rcases hi with rfl | rfl <;> exact (requireKey_of_eq _ hk).trans (requireLen_of_lt _ hl)

/-- A check that fails does so with a code that KCNT and LEN decide. -/
theorem pipeline_fails_alike {s s' : State} (hkcnt : s.kcnt = s'.kcnt) (hlen : s.len = s'.len)
    (h : ¬(s.kcnt = 4#4 ∧ s.len.toNat ≤ Config.nMax)) :
    ∃ c, c ≠ 0#3 ∧ exec i s = .next (s.setErrcode c) ∧ exec i s' = .next (s'.setErrcode c) := by
  by_cases hk : s.kcnt = 4#4
  · have hl : Config.nMax < s.len.toNat := Nat.lt_of_not_le fun hl => h ⟨hk, hl⟩
    exact ⟨errBadLength, by decide, pipeline_of_len_gt hi hk hl, pipeline_of_len_gt hi (hkcnt ▸ hk) (hlen ▸ hl)⟩
  · exact ⟨errInvalidKeyLength, by decide, pipeline_of_kcnt_ne hi hk, pipeline_of_kcnt_ne hi (hkcnt ▸ hk)⟩

theorem pipeline_len (s : State) : (commandEffect i s).len = s.len := by
  rcases hi with rfl | rfl <;> rfl

theorem pipeline_seed (s : State) : (commandEffect i s).seed = s.key.le32 := by
  rcases hi with rfl | rfl <;> rfl

theorem pipeline_x (s : State) : (commandEffect i s).x = keystreamEnd s.key.le32 s.len.toNat := by
  rw [commandEffect_x_of_keystream s (.inr hi), pipeline_seed hi]

theorem pipeline_bstep (s : State) : (commandEffect i s).bstep = blockCounter (blockCount s.len.toNat) :=
  commandEffect_bstep_of_rotation s (.inr (.inr hi))

theorem pipeline_tstep (s : State) : (commandEffect i s).tstep = byteCounter s.len.toNat :=
  commandEffect_tstep_of_transform s (.inr (.inr hi))

/-- SEED, X, both counters, BUF and ERRCODE are all that a pipeline command writes (10_state.md R35). -/
theorem pipeline_frame (s : State) : (commandEffect i s).setErrcode errOk = { s with
    seed := s.key.le32, x := keystreamEnd s.key.le32 s.len.toNat, tstep := byteCounter s.len.toNat,
    bstep := blockCounter ((s.len.toNat + 7) / 8), buf := (commandEffect i s).buf, errcode := 0#3 } := by
  rw [← blockCount, ← pipeline_x hi, ← pipeline_bstep hi, ← pipeline_tstep hi]
  rcases hi with rfl | rfl <;> rfl

/-- A pipeline command whose checks pass completes, and what it leaves. -/
theorem exec_pipeline {s : State} (hk : s.kcnt = 4#4) (hl : s.len.toNat ≤ Config.nMax) :
    ∃ t, exec i s = .next t ∧ PipelineResult i s t := by
  refine ⟨_, exec_of_key_and_length i hk hl, ?_⟩
  have hframe := pipeline_frame hi s
  exact {
    key := by rw [hframe]
    kcnt := by rw [hframe]
    len := by rw [hframe]
    result := by rw [hframe]
    errcode := by rw [hframe]
    seed := by rw [hframe]
    x := by rw [hframe]
    bstep := by rw [hframe]
    tstep := by rw [hframe]
    byte := fun _ => rfl }

end Pipeline

/-! ## Positions in a block (43_block_rotation.md R161, R163) -/

section Positions
variable {n off i : Nat} (hoff : isBlock n off)
include hoff

theorem position_lt (hi : i < blockSize n off) : off + i < n :=
  Nat.lt_of_lt_of_le (Nat.add_lt_add_left hi off) (add_blockSize_le hoff)

/-- A rotation stays within the block. -/
theorem rotated_position_lt (k : Nat) : off + k % blockSize n off < n :=
  position_lt hoff (Nat.mod_lt k (blockSize_pos hoff))

/-- A rotation reaches every position of the block. -/
theorem exists_rotated_position (hi : i < blockSize n off) :
    ∃ k < blockSize n off, i = (k + blockAmount n off) % blockSize n off := by
  have ha := blockAmount_lt_blockSize hoff
  refine ⟨(i + (blockSize n off - blockAmount n off)) % blockSize n off, Nat.mod_lt _ (blockSize_pos hoff), ?_⟩
  rw [Nat.mod_add_mod, Nat.add_assoc, Nat.sub_add_cancel ha.le, Nat.add_mod_right, Nat.mod_eq_of_lt hi]

end Positions

/-! ## ENCODE and DECODE, byte by byte (45_pipeline.md R211, R212) -/

section PipelineBytes
variable {s : State} {off i j : Nat} (hoff : isBlock s.len.toNat off) (hi : i < blockSize s.len.toNat off)
  (hj : j = off + (i + blockAmount s.len.toNat off) % blockSize s.len.toNat off)
include hoff hi hj

theorem encode_byte : (commandEffect .encode s).byte (off + i) =
    xenc (s.byte j) (byteCounter (j + 1)).toNat (j % 2 == 1) ^^^ keystreamByte s.key.le32 (off + i) := by
  have hxf : (xfStage xenc (loadSeed s)).byte j = xenc (s.byte j) (byteCounter (j + 1)).toNat (j % 2 == 1) :=
    xfStage_byte_below xenc (s := loadSeed s) (hj ▸ rotated_position_lt hoff _)
  have hrot : (blockStage rotFwd (xfStage xenc (loadSeed s))).byte (off + i) = (xfStage xenc (loadSeed s)).byte j :=
    hj ▸ blockStage_rotFwd_byte (s := xfStage xenc (loadSeed s)) hoff hi
  rw [← hxf, ← hrot]
  exact ksXorStage_byte_below (position_lt hoff hi)

theorem decode_byte : (commandEffect .decode s).byte j =
    xdec (s.byte (off + i) ^^^ keystreamByte s.key.le32 (off + i)) (byteCounter (j + 1)).toNat (j % 2 == 1) := by
  have hxor : (ksXorStage (loadSeed s)).byte (off + i) = s.byte (off + i) ^^^ keystreamByte s.key.le32 (off + i) :=
    ksXorStage_byte_below (s := loadSeed s) (position_lt hoff hi)
  have hrot : (blockStage rotInv (ksXorStage (loadSeed s))).byte j = (ksXorStage (loadSeed s)).byte (off + i) :=
    hj ▸ blockStage_rotInv_byte (s := ksXorStage (loadSeed s)) hoff hi
  rw [← hxor, ← hrot]
  exact xfStage_byte_below xdec (hj ▸ rotated_position_lt hoff _)

end PipelineBytes

/-- Settles O43: the effect in its registers, below LEN, and at and above LEN, behind the two checks. -/
theorem encodeEncrypts : Obligations.EncodeEncrypts := by
  refine ⟨decode_encode .encode, fun s => ⟨fun hk hl => ⟨_, _, exec_of_key_and_length _ hk hl, rfl, ?_, ?_, ?_⟩,
    pipeline_of_kcnt_ne (.inl rfl), pipeline_of_len_gt (.inl rfl)⟩⟩
  · exact pipeline_frame (.inl rfl) s
  · exact fun _ _ hoff hi => encode_byte hoff hi rfl
  · exact fun _ => commandEffect_byte_above

/-- Settles O44: as for ENCODE, with the stages of the other direction in the other order. -/
theorem decodeDecrypts : Obligations.DecodeDecrypts := by
  refine ⟨decode_encode .decode, fun s => ⟨fun hk hl => ⟨_, _, exec_of_key_and_length _ hk hl, rfl, ?_, ?_, ?_⟩,
    pipeline_of_kcnt_ne (.inr rfl), pipeline_of_len_gt (.inr rfl)⟩⟩
  · exact pipeline_frame (.inr rfl) s
  · exact fun _ _ hoff hi => decode_byte hoff hi rfl
  · exact fun _ => commandEffect_byte_above

/-! ## The round trip (45_pipeline.md R213) -/

/-- DECODE undoes ENCODE: each position below LEN is where the rotation put some byte, and there the keystream cancels
and then the byte transform. -/
theorem decode_undoes_encode {s t : State} (h : PipelineResult .encode s t) (j : Nat) :
    (commandEffect .decode t).byte j = s.byte j := by
  have hlen := h.len
  by_cases hj : j < s.len.toNat
  · obtain ⟨off, k, hoff, hk, rfl⟩ := exists_block_of_lt hj
    obtain ⟨i, hi, hrot⟩ := exists_rotated_position hoff hk
    have hpos := congrArg (off + ·) hrot
    rw [decode_byte (s := t) (hlen ▸ hoff) (hlen ▸ hi) (hlen ▸ hpos), h.byte, encode_byte hoff hi hpos, h.key,
      BitVec.xor_assoc, BitVec.xor_self, BitVec.xor_zero, xdec_xenc]
  · have hj := Nat.le_of_not_lt hj
    rw [commandEffect_byte_above (hlen ▸ hj), h.byte, commandEffect_byte_above hj]

/-- ENCODE undoes DECODE: the byte transform cancels and then the keystream. -/
theorem encode_undoes_decode {s t : State} (h : PipelineResult .decode s t) (j : Nat) :
    (commandEffect .encode t).byte j = s.byte j := by
  have hlen := h.len
  by_cases hj : j < s.len.toNat
  · obtain ⟨off, i, hoff, hi, rfl⟩ := exists_block_of_lt hj
    rw [encode_byte (s := t) (hlen ▸ hoff) (hlen ▸ hi) rfl, h.byte, hlen, decode_byte hoff hi rfl, h.key, xenc_xdec,
      BitVec.xor_assoc, BitVec.xor_self, BitVec.xor_zero]
  · have hj := Nat.le_of_not_lt hj
    rw [commandEffect_byte_above (hlen ▸ hj), h.byte, commandEffect_byte_above hj]

/-- Settles O45: neither command writes KEY, KCNT or LEN, so the second one passes the checks too, undoes the first, and
leaves the same registers. -/
theorem roundTrip : Obligations.RoundTrip := by
  intro s hk hl
  obtain ⟨t, ht, rt⟩ := exec_pipeline (.inl rfl) hk hl
  obtain ⟨t', ht', rt'⟩ := exec_pipeline (.inr rfl) hk hl
  obtain ⟨u, hu, ru⟩ := exec_pipeline (.inr rfl) (rt.kcnt.trans hk) (rt.len ▸ hl)
  obtain ⟨u', hu', ru'⟩ := exec_pipeline (.inl rfl) (rt'.kcnt.trans hk) (rt'.len ▸ hl)
  obtain ⟨hseed, hx, hbstep, htstep⟩ := ru.registers_eq rt rt.key rt.len
  obtain ⟨hseed', hx', hbstep', htstep'⟩ := ru'.registers_eq rt' rt'.key rt'.len
  exact ⟨t, u, t', u', ht, hu, ht', hu', fun j => (ru.byte j).trans (decode_undoes_encode rt j),
    fun j => (ru'.byte j).trans (encode_undoes_decode rt' j), hseed, hx, hbstep, htstep, hseed', hx', hbstep', htstep',
    rt'.registers_eq rt rfl rfl⟩

/-! ## What the pipeline reads (45_pipeline.md R215) -/

theorem buffer_eq_iff {s s' : State} (hlen : s.len = s'.len) :
    s.buffer = s'.buffer ↔ ∀ j, j < s.len.toNat → s.byte j = s'.byte j := by
  simp [State.buffer, State.bytes, hlen]

/-- Each stage makes its output from the buffer it finds, and the keystream stage from SEED, which is KEY's by then. -/
theorem pipeline_buffer_eq {i : Instr} (hi : i = .encode ∨ i = .decode) {s s' : State} (hkey : s.key = s'.key)
    (hlen : s.len = s'.len) (hbuf : s.buffer = s'.buffer) :
    (commandEffect i s).buffer = (commandEffect i s').buffer := by
  rcases hi with rfl | rfl
  · simp only [commandEffect, ksXorStage_buffer, blockStage_buffer _ rotFwd_length, xfStage_buffer, blockStage_seed,
      xfStage_seed, xfStage_len, loadSeed_seed, loadSeed_len, loadSeed_buffer, hkey, hlen, hbuf]
  · simp only [commandEffect, ksXorStage_buffer, blockStage_buffer _ rotInv_length, xfStage_buffer, ksXorStage_len,
      loadSeed_seed, loadSeed_len, loadSeed_buffer, hkey, hlen, hbuf]

/-- Settles O47: KCNT and LEN decide the checks, KEY and LEN the registers, and these with the buffer the bytes. -/
theorem pipelineReadsNothingElse : Obligations.PipelineReadsNothingElse := by
  intro i s s' hi hkey hkcnt hlen hbyte
  by_cases h : s.kcnt = 4#4 ∧ s.len.toNat ≤ Config.nMax
  · obtain ⟨hk, hl⟩ := h
    obtain ⟨t, ht, rt⟩ := exec_pipeline hi hk hl
    obtain ⟨t', ht', rt'⟩ := exec_pipeline hi (hkcnt ▸ hk) (hlen ▸ hl)
    refine ⟨t, t', ht, ht', rt.errcode.trans rt'.errcode.symm, ?_, fun _ => rt.registers_eq rt' hkey hlen⟩
    have hbuf := pipeline_buffer_eq hi hkey hlen ((buffer_eq_iff hlen).mpr hbyte)
    rw [buffer_eq_iff (by rw [pipeline_len hi, pipeline_len hi, hlen]), pipeline_len hi] at hbuf
    exact fun j hj => (rt.byte j).trans ((hbuf j hj).trans (rt'.byte j).symm)
  · obtain ⟨c, hc, hs, hs'⟩ := pipeline_fails_alike hi hkcnt hlen h
    exact ⟨_, _, hs, hs', rfl, hbyte, fun hok => absurd hok hc⟩

/-! ## The pipeline as its stages (45_pipeline.md R216) -/

theorem commandEffect_setErrcode (i : Instr) (s : State) (c : BitVec 3) :
    commandEffect i (s.setErrcode c) = (commandEffect i s).setErrcode c := by
  cases i <;> rfl

/-- A command that passes its checks after a completed one adds its effect to that one's. -/
theorem andThen_effect (i : Instr) {o : Host.Outcome State Fault Refusal} {t : State}
    (ho : o = .next (t.setErrcode errOk)) (hk : t.kcnt = 4#4) (hl : t.len.toNat ≤ Config.nMax) :
    andThen o (exec i) = .next ((commandEffect i t).setErrcode errOk) := by
  calc andThen o (exec i)
    _ = exec i (t.setErrcode errOk) := by rw [ho]; rfl
    _ = .next ((commandEffect i (t.setErrcode errOk)).setErrcode errOk) := exec_of_key_and_length i hk hl
    _ = .next ((commandEffect i t).setErrcode errOk) := by rw [commandEffect_setErrcode, State.setErrcode_setErrcode]

/-- Settles O48: no stage looks at the ERRCODE that the command before it leaves. -/
theorem pipelineEqualsItsStages : Obligations.PipelineEqualsItsStages := by
  intro s
  refine ⟨fun hk hl => ?_, fun h => ?_⟩
  · have hseed := exec_of_key_and_length .seed hk hl
    have hxfenc := andThen_effect .xfenc hseed hk hl
    have hblkfwd := andThen_effect .blkfwd hxfenc hk hl
    have hencode := andThen_effect .ksxor hblkfwd hk hl
    have hksxor := andThen_effect .ksxor hseed hk hl
    have hblkinv := andThen_effect .blkinv hksxor hk hl
    have hdecode := andThen_effect .xfdec hblkinv hk hl
    obtain ⟨t, ht, rt⟩ := exec_pipeline (.inl rfl) hk hl
    obtain ⟨u, hu, ru⟩ := exec_pipeline (.inr rfl) hk hl
    exact ⟨(exec_of_key_and_length .encode hk hl).trans hencode.symm,
      (exec_of_key_and_length .decode hk hl).trans hdecode.symm, t, u, ht, hu, rt.errcode, ru.errcode, rt.result,
      ru.result⟩
  · obtain ⟨c, -, hencode, -⟩ := pipeline_fails_alike (.inl rfl) (s' := s) rfl rfl h
    obtain ⟨c', -, hdecode, -⟩ := pipeline_fails_alike (.inr rfl) (s' := s) rfl rfl h
    exact ⟨c, c', hencode, hdecode⟩

/-! ## The empty buffer (45_pipeline.md R214) -/

theorem buffer_of_len_zero {s : State} (h : s.len = 0#16) : s.buffer = [] :=
  List.eq_nil_of_length_eq_zero (by rw [State.buffer_length, h]; rfl)

/-- With LEN = 0 each stage stores no byte. -/
theorem pipeline_buf_of_len_zero {i : Instr} (hi : i = .encode ∨ i = .decode) {s : State} (h : s.len = 0#16) :
    (commandEffect i s).buf = s.buf := by
  rcases hi with rfl | rfl <;>
    simp [commandEffect, buffer_of_len_zero, h, blockCount, xfBytes, rotBlocks, ksXorBytes, Memory.storeAll]

/-- Settles O46: the keystream and the counters end where they start. -/
theorem zeroLengthAppliesNoStage : Obligations.ZeroLengthAppliesNoStage := by
  intro s hk hlen
  have hl : s.len.toNat ≤ Config.nMax := by rw [hlen]; decide
  have hrun {i : Instr} (hi : i = .encode ∨ i = .decode) : exec i s = .next { s with
      seed := s.key.le32, x := s.key.le32, bstep := 0#3, tstep := 0#3, errcode := 0#3 } := by
    rw [exec_of_key_and_length i hk hl, pipeline_frame hi, pipeline_buf_of_len_zero hi hlen, hlen]
    rfl
  exact ⟨s.key.le32, rfl, hrun (.inl rfl), hrun (.inr rfl)⟩

end Sys2Proof.Proofs
end

section
namespace Sys2Proof.Proofs

open Sys2Proof.Machine Sys2Proof.Safety

/-! ## The outcome of a command word (60_exceptions.md R232, R236) -/

theorem runCommand_of_ok {w : Word} {i : Instr} (hd : decode w = .ok i) (s : State) :
    runCommand w s = exec i s := by
  rw [runCommand, hd]

theorem runCommand_of_error {w : Word} {r : DecodeError} (hd : decode w = .error r) (s : State) :
    runCommand w s = .next (s.setErrcode errIllegalCmd) := by
  rw [runCommand, hd, raiseError]

/-- The key check is the first check of every command that uses the key. -/
theorem exec_of_kcnt_ne {i : Instr} {s : State} (hi : usesKey i) (hk : s.kcnt ≠ 4#4) :
    exec i s = .next (s.setErrcode errInvalidKeyLength) := by
  rcases hi with rfl | hi
  · exact requireKey_of_ne _ hk
  · exact pipeline_of_kcnt_ne hi hk

/-- The length check decides once the key check, where there is one, has passed. -/
theorem exec_of_len_gt {i : Instr} {s : State} (hi : usesLength i) (hk : usesKey i → s.kcnt = 4#4)
    (hl : Config.nMax < s.len.toNat) : exec i s = .next (s.setErrcode errBadLength) := by
  rcases exec_outcome i s with ⟨-, -, hle⟩ | ⟨-, hkey, hne⟩ | ⟨h, -⟩
  · exact absurd (hle hi) (Nat.not_le_of_lt hl)
  · exact absurd (hk hkey) hne
  · exact h

/-- Settles O13: an illegal word runs no command, and a command's checks decide its code in the order of R236. -/
theorem everyCommandCompletesWithTheFirstCode : Obligations.EveryCommandCompletesWithTheFirstCode := by
  intro w s
  cases hd : decode w with
  | error r =>
    exact ⟨_, runCommand_of_error hd s, fun _ => rfl, nofun, nofun, nofun⟩
  | ok i =>
    obtain ⟨t, ht⟩ := exec_total i s
    refine ⟨t, (runCommand_of_ok hd s).trans ht, nofun, ?_, ?_, ?_⟩
    · rintro _ ⟨⟩ hi hk
      cases ht.symm.trans (exec_of_kcnt_ne hi hk)
      rfl
    · rintro _ ⟨⟩ hk hi hl
      cases ht.symm.trans (exec_of_len_gt hi hk hl)
      rfl
    · rintro _ ⟨⟩ hk hl
      cases ht.symm.trans (exec_of_checks hk hl)
      rfl

/-- Settles O14: a command either completes, with ERRCODE = OK, or has written an error code and nothing else. -/
theorem errorsArePrecise : Obligations.ErrorsArePrecise := by
  intro w s t h herr
  rcases runCommand_cases h with ⟨i, -, he⟩ | ⟨r, -, rfl⟩
  · rcases exec_cases he with ⟨rfl, -⟩ | ⟨c, -, rfl⟩
    · exact absurd rfl herr
    · rfl
  · rfl

/-! ## Scalar commands do not look at LEN (60_exceptions.md R233) -/

theorem commandEffect_setLen {i : Instr} (hi : ¬usesLength i) (s : State) (n : BitVec 16) :
    commandEffect i (s.setLen n) = (commandEffect i s).setLen n := by
  cases i with
  | ksxor | blkfwd | blkinv | xfenc | xfdec | encode | decode => simp [usesLength] at hi
  | _ => rfl

theorem exec_setLen {i : Instr} (hi : ¬usesLength i) (s : State) (n : BitVec 16) :
    exec i (s.setLen n) = andThen (exec i s) fun t => .next (t.setLen n) := by
  by_cases hk : usesKey i → s.kcnt = 4#4
  · rw [exec_of_checks hk (absurd · hi), exec_of_checks (s := s.setLen n) hk (absurd · hi),
      commandEffect_setLen hi]
    rfl
  · obtain ⟨hkey, hne⟩ := Classical.not_imp.mp hk
    rw [exec_of_kcnt_ne hkey hne, exec_of_kcnt_ne (s := s.setLen n) hkey hne]
    rfl

/-- Settles O15: the two checks in their order, and the commands that make no length check. -/
theorem failedChecksChangeOnlyErrcode : Obligations.FailedChecksChangeOnlyErrcode :=
  ⟨fun _ _ => exec_of_kcnt_ne, fun _ _ => exec_of_len_gt, fun _ s n hi => exec_setLen hi s n⟩

/-! ## A write of an illegal word to CMD (60_exceptions.md R232) -/

/-- Settles O9: the oldest event is the write of a word that does not decode. -/
theorem stepOfAnIllegalWordSetsIllegalCmd : Obligations.StepOfAnIllegalWordSetsIllegalCmd := by
  intro s es w r hp hd
  calc step s
    _ = perform (commandWrite w) (s.setPending es) := step_pending s _ es hp
    _ = respondOk (runCommand w (s.setPending es)) := perform_commandWrite w _
    _ = respondOk (.next ((s.setPending es).setErrcode errIllegalCmd)) := by rw [runCommand_of_error hd]

end Sys2Proof.Proofs
end

section
namespace Sys2Proof.Proofs

open Sys2Proof.Machine Sys2Proof.Safety

/-! ## The reset event (70_reset_and_hazards.md R250) -/

theorem perform_reset (s : State) : perform .reset s = .next s.afterReset := rfl

/-- After a reset nothing is written yet, so every byte of BUF is the free value of the new draw (log 3). -/
theorem afterReset_byte (s : State) (j : Nat) : s.afterReset.byte j = Config.bufAtReset (s.draw + 1) j := rfl

/-- Settles O7: the oldest event is the reset, performed with the rest still pending. -/
theorem resetEventReturnsToResetValues : Obligations.ResetEventReturnsToResetValues := by
  intro s es hp
  have hstep : step s = .next (s.setPending es).afterReset :=
    (step_pending s _ es hp).trans (perform_reset _)
  exact ⟨_, hstep, rfl, afterReset_byte (s.setPending es)⟩

end Sys2Proof.Proofs
end
